-- ==== Sys2Proof/Word.lean ====
section
/-! DEFINITION. The word types of the block (rule R14 gives the widths, rules R15 and R16 the numbering) and the
4-byte packet. Only types stand here; byte order and field extraction are in `Sys2Proof.Machine.Operands`. -/

namespace Sys2Proof

/-- One byte of a packet (rule R14). -/
abbrev Byte := BitVec 8

/-- Half of a byte: the checksum, and the part of `b0` the checksum covers. -/
abbrev Nibble := BitVec 4

/-- A value or data field, 16 bits (rule R14). -/
abbrev Half := BitVec 16

/-- A host command word, a packet written as one word, a CSR, a time sample: 32 bits. -/
abbrev Word := BitVec 32

/-- A baud rate, 24 bits (rules R14 and R30). -/
abbrev Rate := BitVec 24

/-- The device's status code, 2 bits (rule R14). -/
abbrev Status := BitVec 2

/-- A 3-bit count, candidate index or CSR number (rules R26, R30, R31, R33). -/
abbrev Idx := BitVec 3

/-- A packet: exactly four bytes, `b0` sent or received first (rules R16, R55, R70). -/
structure Packet where
  b0 : Byte
  b1 : Byte
  b2 : Byte
  b3 : Byte
  deriving DecidableEq, Repr, Inhabited

end Sys2Proof
end

