-- ==== Sys2Proof/Config.lean ====
section
/-! DEFINITION. The parameters of the block (rules R8 to R13, 93_implementation_defined.md section 2) and the free
values of the model: what the outside world presents in a step that no script fixes. -/

namespace Sys2Proof

/-- The implementation parameters. The spec names each of them and gives a default; a state holds one `Config`, which
no step writes, so a statement about every state is a statement about every value of the parameters. DESIGN CHOICE
(log entry 4). -/
structure Config where
  /-- `T_GEN`, in milliseconds (rule R8). -/
  tGen : Word
  /-- `T_MON`, in milliseconds (rule R9). -/
  tMon : Word
  /-- `T_SETTLE`, in milliseconds (rule R10). -/
  tSettle : Word
  /-- `BAUD_LIST`, tried from index 0 on (rule R11). -/
  baudList : List Rate
  /-- `BAUD_FALLBACK` (rule R12). -/
  baudFallback : Rate
  /-- `NOP_REG` (rule R13). -/
  nopReg : Byte
  /-- `CE_BIT`: the response word's bit that is the communication-error flag (93 item I19, rule R72). -/
  ceBit : Nat
  /-- `STATUS_LSB`: the lower of the response word's two status bits (93 item I19, rule R72). -/
  statusLsb : Nat
  /-- The command packet's `b0[2:0]` (93 item I20, rule R71). -/
  cmdLow : BitVec 3
  /-- `DEADLINE_INCLUSIVE`: whether a byte waiting when the elapsed time is exactly the deadline is still taken
  (93 item I17). -/
  deadlineInclusive : Bool
  deriving DecidableEq, Repr

/-- The documented defaults (93_implementation_defined.md section 2). -/
def Config.default : Config where
  tGen := 100#32
  tMon := 500#32
  tSettle := 50#32
  baudList := [4800#24, 9600#24, 19200#24, 38400#24, 57600#24, 115200#24]
  baudFallback := 9600#24
  nopReg := 0x00#8
  ceBit := 27
  statusLsb := 24
  cmdLow := 0#3
  deadlineInclusive := false

/-- `N_BAUD` (rule R11). -/
abbrev Config.nBaud (c : Config) : Nat := c.baudList.length

/-- `BAUD_RESET`, which equals `BAUD_FALLBACK` (rule R12). -/
abbrev Config.baudReset (c : Config) : Rate := c.baudFallback

/-- The one bit of the response's low nibble that is neither CE nor STATUS; it is bit 26 for the default positions
(rule R72). The four positions 24 to 27 sum to 102. -/
abbrev Config.rsvBit (c : Config) : Nat := 101 - c.ceBit - 2 * c.statusLsb

/-- The CE bit and the two STATUS bits are three different bits of `b0[3:0]` (rule R72: only byte 0's lower nibble is
free). -/
abbrev Config.layoutWf (c : Config) : Prop :=
  24 ≤ c.ceBit ∧ c.ceBit ≤ 27 ∧ 24 ≤ c.statusLsb ∧ c.statusLsb ≤ 26 ∧ c.ceBit ≠ c.statusLsb ∧ c.ceBit ≠ c.statusLsb + 1

/-- What the spec asks of the parameters: at least one and at most seven candidate rates, since index 7 means none
(93 section 2), every rate positive (rule R11; the type keeps it below 2^24), and a response layout that fits. -/
abbrev Config.wf (c : Config) : Prop :=
  1 ≤ c.nBaud ∧ c.nBaud ≤ 7 ∧ (∀ r ∈ c.baudList, r ≠ 0#24) ∧ c.layoutWf

/-- The input ports the host drives in one step (rules R33, R41, R44). `now_ms`, `rx_avail` and `rx_byte` come from the
transport (rule R42). -/
structure Inputs where
  /-- `rst`, synchronous and active high. -/
  rst : Bool
  /-- `cmd_valid`. -/
  cmdValid : Bool
  /-- `cmd_word`. -/
  cmdWord : Word
  /-- `csr_sel`. -/
  csrSel : Idx
  deriving DecidableEq, Repr, Inhabited

/-- What the world outside the block does for one step: the input ports it drives, the milliseconds that pass and the
bytes that enter the transport's receive queue before that step's sample (rule R7: host, transport and device act as an
oracle). Time is given as what passes, so no step can make the clock run back (rule R56 (d)). -/
structure EnvStep where
  inp : Inputs
  ms : Word
  arrivals : List Byte
  deriving DecidableEq, Repr, Inhabited

/-- FREE VALUE (log entry 3): what the world does in a step that no script fixes (93 items I7, I8, I9; rules R52,
R213). It has no body, so no proof can see a value of it. -/
opaque Config.freeInput : Nat → EnvStep

/-- FREE VALUE (log entry 3): how many unscripted steps in a row may pass in the same millisecond, for the standstill
that begins at a drawn step. It has no body; that it is a number at all is the duty of rule R56 (d), that time passes. -/
opaque Config.freeStall : Nat → Nat

end Sys2Proof
end

