-- ==== Sys2Proof/Machine/Checksum.lean ====
section
/-! DEFINITION. The checksum and the generator side of the framer (40_checksum_framing.md): BIP4, SEAL and ENCODE,
one checksum for both directions (rule R119). -/

namespace Sys2Proof.Machine

/-- The lower nibble of `b0`: the part of it the checksum covers. -/
def lowNibble (b : Byte) : Nibble := b.extractLsb' 0 4

/-- The upper nibble of a byte. -/
def highNibble (b : Byte) : Nibble := b.extractLsb' 4 4

/-- BIP4 (rule R100). -/
def bip4 (b0 b1 b2 b3 : Byte) : Nibble :=
  let x8 : Byte := (lowNibble b0).setWidth 8 ^^^ b1 ^^^ b2 ^^^ b3
  highNibble x8 ^^^ lowNibble x8

/-- The checksum of a packet (rule R73). -/
def packetChecksum (p : Packet) : Nibble := bip4 p.b0 p.b1 p.b2 p.b3

/-- SEAL: the checksum written into the upper nibble of `b0` (rule R102). -/
def sealPacket (p : Packet) : Packet := { p with b0 := packetChecksum p ++ lowNibble p.b0 }

/-- ENCODE: the command packet (rule R103). `low` is `b0[2:0]`, which rule R103 makes 0 and 93 item I20 a
parameter. -/
def encodePacket (low : BitVec 3) (reg : Byte) (value : Half) (w lr : Bool) : Packet :=
  let b0 : Byte := (BitVec.ofBool lr).setWidth 8 <<< 7 ||| (BitVec.ofBool w).setWidth 8 <<< 3 ||| low.setWidth 8
  let b2 : Byte := value.extractLsb' 8 8
  let b3 : Byte := value.extractLsb' 0 8
  let c := bip4 b0 reg b2 b3
  { b0 := c.setWidth 8 <<< 4 ||| (lowNibble b0).setWidth 8, b1 := reg, b2 := b2, b3 := b3 }

end Sys2Proof.Machine
end

