-- ==== Sys2Proof/Machine/Operands.lean ====
section
/-! DEFINITION. Operand assembly: packets as words and the byte order (rules R16, R53 to R55), the fields of the host
command word (rules R74 and R77), the fields of a response and its validation (rules R78 and R107), and the addressing
of the receive buffer (rule R26). -/

namespace Sys2Proof.Machine

/-- A packet as one word, `b0` in bits 31:24 (rule R16). -/
def wordOfPacket (p : Packet) : Word := p.b0 ++ p.b1 ++ p.b2 ++ p.b3

/-- The packet a word stands for (rule R16). -/
def packetOfWord (w : Word) : Packet where
  b0 := w.extractLsb' 24 8
  b1 := w.extractLsb' 16 8
  b2 := w.extractLsb' 8 8
  b3 := w.extractLsb' 0 8

/-- OP, bits 31:28 of the host command word (rule R74). -/
def opField (w : Word) : Nibble := w.extractLsb' 28 4

/-- TC, bit 26 of the host command word (rule R74). -/
def tcField (w : Word) : Bool := w.getLsbD 26

/-- REG, bits 23:16 of a command word or a packet (rules R71, R72, R74). -/
def regField (w : Word) : Byte := w.extractLsb' 16 8

/-- VALUE or DATA, bits 15:0 of a command word or a packet (rules R71, R72, R74). -/
def valueField (w : Word) : Half := w.extractLsb' 0 16

/-- V, bit 0 of a SETVERB word (rule R77). -/
def vField (w : Word) : Bool := w.getLsbD 0

/-- What DECODE returns for a packet whose checksum is right (rule R107). -/
structure Response where
  ce : Bool
  rsv : Bool
  status : Status
  reg : Byte
  data : Half
  deriving DecidableEq, Repr

/-- `b2 << 8 | b3` (rules R54 and R78). -/
def packetData (p : Packet) : Half := p.b2 ++ p.b3

/-- The header fields, at the positions the parameters give; the defaults are those of rule R78. -/
def responseOf (c : Config) (p : Packet) : Response where
  ce := (lowNibble p.b0).getLsbD (c.ceBit - 24)
  rsv := (lowNibble p.b0).getLsbD (c.rsvBit - 24)
  status := (lowNibble p.b0).extractLsb' (c.statusLsb - 24) 2
  reg := p.b1
  data := packetData p

/-- DECODE (rule R107); `none` is ChecksumError, which carries no field (rule R108). -/
def decodePacket (c : Config) (p : Packet) : Option Response :=
  if highNibble p.b0 = packetChecksum p then some (responseOf c p) else none

/-- The low nibble of a response header with these fields: the encoder's side of `responseOf`. -/
def responseLow (c : Config) (ce rsv : Bool) (status : Status) : Nibble :=
  (BitVec.ofBool ce).setWidth 4 <<< (c.ceBit - 24) ||| (BitVec.ofBool rsv).setWidth 4 <<< (c.rsvBit - 24)
    ||| status.setWidth 4 <<< (c.statusLsb - 24)

/-- A packet from its header's low nibble, REG and DATA, with the checksum nibble given. -/
def packetOf (chk low : Nibble) (reg : Byte) (data : Half) : Packet where
  b0 := chk ++ low
  b1 := reg
  b2 := data.extractLsb' 8 8
  b3 := data.extractLsb' 0 8

/-- `S.rxbuf[k] <- b` (rules R26 and R141); a `k` above 3 names no byte. -/
def putByte (p : Packet) (k : Idx) (b : Byte) : Packet :=
  if k = 0#3 then { p with b0 := b }
  else if k = 1#3 then { p with b1 := b }
  else if k = 2#3 then { p with b2 := b }
  else if k = 3#3 then { p with b3 := b }
  else p

/-- The packet ENCODE makes of a read or write request, with the marker input 1 (rules R105, R111, R112, R140). -/
def requestPacket (c : Config) (reg : Byte) (value : Half) (w : Bool) : Packet :=
  encodePacket c.cmdLow reg value w true

end Sys2Proof.Machine
end

