-- ==== Sys2Proof/Syntax.lean ====
section
/-! DEFINITION. The instructions: one constructor per row of spec/opcode_table.json. Four are host commands
(rule R79), two are the packets the block emits and six the kinds of packet it receives (rule R81). Checksums that
their packet's other bits fix are no operand; RSP.BAD, whose checksum is wrong, carries it. -/

namespace Sys2Proof

inductive Instr where
  /-- TXN.RD: read a device register (rule R150). -/
  | txnRd (tc : Bool) (reg : Byte) (value : Half)
  /-- TXN.WR: write a device register (rule R151). -/
  | txnWr (tc : Bool) (reg : Byte) (value : Half)
  /-- NEGOTIATE: the baud-rate retry sequencer (rule R170). -/
  | negotiate
  /-- SETVERB: set the verbosity flag (rule R180). -/
  | setverb (v : Bool)
  /-- CMD.RD: the read request the block sends (rule R111). -/
  | cmdRd (reg : Byte) (value : Half)
  /-- CMD.WR: the write request the block sends (rule R112). -/
  | cmdWr (reg : Byte) (value : Half)
  /-- RSP.BAD: a received packet whose CHK is not its checksum (rule R113). `low` is `b0[3:0]`. -/
  | rspBad (chk : Nibble) (low : Nibble) (reg : Byte) (data : Half)
  /-- RSP.CE: a valid packet with CE = 1 (rule R114). -/
  | rspCe (rsv : Bool) (status : Status) (reg : Byte) (data : Half)
  /-- RSP.OK: a valid packet with CE = 0 and STATUS = 0 (rule R115). -/
  | rspOk (rsv : Bool) (reg : Byte) (data : Half)
  /-- RSP.XE: STATUS = 1 (rule R116). -/
  | rspXe (rsv : Bool) (reg : Byte) (data : Half)
  /-- RSP.AEA: STATUS = 2 (rule R117). -/
  | rspAea (rsv : Bool) (reg : Byte) (data : Half)
  /-- RSP.CP: STATUS = 3 (rule R118). -/
  | rspCp (rsv : Bool) (reg : Byte) (data : Half)
  deriving DecidableEq, Repr

/-- The three places a 32-bit encoding can stand in (30_encoding.md): the command port, the packets the block sends,
the packets it receives. One word may mean something in each of them. -/
inductive Channel where
  | host
  | command
  | response
  deriving DecidableEq, Repr

/-- The place an instruction's encoding belongs to (rules R79 and R81). -/
def Instr.channel : Instr → Channel
  | .txnRd _ _ _ => .host
  | .txnWr _ _ _ => .host
  | .negotiate => .host
  | .setverb _ => .host
  | .cmdRd _ _ => .command
  | .cmdWr _ _ => .command
  | .rspBad _ _ _ _ => .response
  | .rspCe _ _ _ _ => .response
  | .rspOk _ _ _ => .response
  | .rspXe _ _ _ => .response
  | .rspAea _ _ _ => .response
  | .rspCp _ _ _ => .response

end Sys2Proof
end

