-- ==== Sys2Proof/WellFormed.lean ====
section
/-! DEFINITION. Which terms of `Instr` are instructions. Every operand's width is its type's, so one check remains:
RSP.BAD stands for packets whose checksum is wrong (rules R81 and R113). -/

namespace Sys2Proof

/-- Whether the term is an instruction of the table: a RSP.BAD's CHK differs from BIP4 of its other bits. -/
def Instr.wellFormed : Instr → Bool
  | .rspBad chk low reg data => chk != Machine.packetChecksum (Machine.packetOf chk low reg data)
  | .txnRd _ _ _ => true
  | .txnWr _ _ _ => true
  | .negotiate => true
  | .setverb _ => true
  | .cmdRd _ _ => true
  | .cmdWr _ _ => true
  | .rspCe _ _ _ _ => true
  | .rspOk _ _ _ => true
  | .rspXe _ _ _ => true
  | .rspAea _ _ _ => true
  | .rspCp _ _ _ => true

end Sys2Proof
end

