-- ==== Sys2Proof/Decode.lean ====
section
/-! DEFINITION. Decoding a 32-bit word in each of its three places, total on every word and rejecting by name, and the
encoder beside it (30_encoding.md). -/

namespace Sys2Proof

/-- Why a word is not an instruction of its place. -/
inductive DecodeError where
  /-- A host word whose OP is 0x0 or 0x4 to 0xF (rules R75 and R182). -/
  | unassignedOp (op : Nibble)
  /-- A TXN word with bits 25:24 not 00 (rules R74 and R182). -/
  | txnReservedBits
  /-- A NEGOTIATE word with any of bits 27:0 set (rules R75 and R182). -/
  | negotiateBits
  /-- A SETVERB word with any of bits 27:1 set (rules R75 and R182). -/
  | setverbBits
  /-- A command packet whose CHK is not its checksum (rules R71 and R81). -/
  | commandChecksum
  /-- A command packet with other header bits than the block ever emits (rules R71 and R82 (c)). -/
  | commandHeader
  deriving DecidableEq, Repr

/-- What a decoder answers: an instruction, or a rejection by name. -/
inductive Decoded where
  | ok (i : Instr)
  | rejected (e : DecodeError)
  deriving DecidableEq, Repr

/-- A row of the opcode table: a word `w` selects it when `w &&& mask = pattern` (rule R79). -/
structure Row where
  pattern : Word
  mask : Word
  deriving DecidableEq, Repr

def Row.selects (r : Row) (w : Word) : Bool := w &&& r.mask == r.pattern

def rowTxnRd : Row := ⟨0x10000000#32, 0xFB000000#32⟩
def rowTxnWr : Row := ⟨0x18000000#32, 0xFB000000#32⟩
def rowNegotiate : Row := ⟨0x20000000#32, 0xFFFFFFFF#32⟩
def rowSetverb : Row := ⟨0x30000000#32, 0xFFFFFFFE#32⟩

/-- The name under which a host word that selects no row is rejected (rule R182's list). -/
def hostRejection (w : Word) : DecodeError :=
  if Machine.opField w = 0x1#4 then .txnReservedBits
  else if Machine.opField w = 0x2#4 then .negotiateBits
  else if Machine.opField w = 0x3#4 then .setverbBits
  else .unassignedOp (Machine.opField w)

/-- The host command decoder (rule R79); a word that selects no row is illegal (rule R80). -/
def decodeHost (w : Word) : Decoded :=
  if rowTxnRd.selects w then .ok (.txnRd (Machine.tcField w) (Machine.regField w) (Machine.valueField w))
  else if rowTxnWr.selects w then .ok (.txnWr (Machine.tcField w) (Machine.regField w) (Machine.valueField w))
  else if rowNegotiate.selects w then .ok .negotiate
  else if rowSetverb.selects w then .ok (.setverb (Machine.vField w))
  else .rejected (hostRejection w)

/-- Reading back a packet of the kinds the block sends (rule R81, CMD.RD and CMD.WR). The low header bits are the
parameter of 93 item I20, by default the 0 of rule R71. -/
def decodeCommand (c : Config) (w : Word) : Decoded :=
  let p := Machine.packetOfWord w
  if Machine.highNibble p.b0 = Machine.packetChecksum p then
    if Machine.lowNibble p.b0 = 0#1 ++ c.cmdLow then .ok (.cmdRd (Machine.regField w) (Machine.valueField w))
    else if Machine.lowNibble p.b0 = 1#1 ++ c.cmdLow then .ok (.cmdWr (Machine.regField w) (Machine.valueField w))
    else .rejected .commandHeader
  else .rejected .commandChecksum

/-- The kind of a received packet (rule R81): RSP.BAD is decided before any other kind, then CE, then STATUS. Every
packet is exactly one kind. -/
def classify (c : Config) (p : Packet) : Instr :=
  match Machine.decodePacket c p with
  | none => .rspBad (Machine.highNibble p.b0) (Machine.lowNibble p.b0) p.b1 (Machine.packetData p)
  | some r =>
    if r.ce then .rspCe r.rsv r.status r.reg r.data
    else if r.status = 0#2 then .rspOk r.rsv r.reg r.data
    else if r.status = 1#2 then .rspXe r.rsv r.reg r.data
    else if r.status = 2#2 then .rspAea r.rsv r.reg r.data
    else .rspCp r.rsv r.reg r.data

/-- The decoder of each place a word can stand in. -/
def decode (c : Config) (ch : Channel) (w : Word) : Decoded :=
  match ch with
  | .host => decodeHost w
  | .command => decodeCommand c w
  | .response => .ok (classify c (Machine.packetOfWord w))

/-- A TXN word from its fields (rules R74 and R79). -/
def txnWord (w tc : Bool) (reg : Byte) (value : Half) : Word :=
  0x1#4 ++ BitVec.ofBool w ++ BitVec.ofBool tc ++ 0#2 ++ reg ++ value

/-- A valid response packet from its fields (rule R72), its checksum computed by SEAL. -/
def responseWord (c : Config) (ce rsv : Bool) (status : Status) (reg : Byte) (data : Half) : Word :=
  Machine.wordOfPacket (Machine.sealPacket (Machine.packetOf 0#4 (Machine.responseLow c ce rsv status) reg data))

/-- The encoder (rules R71, R72, R79, R81). -/
def encode (c : Config) : Instr → Word
  | .txnRd tc reg value => txnWord false tc reg value
  | .txnWr tc reg value => txnWord true tc reg value
  | .negotiate => 0x2#4 ++ 0#28
  | .setverb v => 0x3#4 ++ 0#27 ++ BitVec.ofBool v
  | .cmdRd reg value => Machine.wordOfPacket (Machine.requestPacket c reg value false)
  | .cmdWr reg value => Machine.wordOfPacket (Machine.requestPacket c reg value true)
  | .rspBad chk low reg data => Machine.wordOfPacket (Machine.packetOf chk low reg data)
  | .rspCe rsv status reg data => responseWord c true rsv status reg data
  | .rspOk rsv reg data => responseWord c false rsv 0#2 reg data
  | .rspXe rsv reg data => responseWord c false rsv 1#2 reg data
  | .rspAea rsv reg data => responseWord c false rsv 2#2 reg data
  | .rspCp rsv reg data => responseWord c false rsv 3#2 reg data

/-- The first of the three places, in the order command port, sent packet, received packet, whose decoder takes the
word. DESIGN CHOICE (log entry 5): the block itself always knows the place; only a table word given without its place
needs this order. -/
def placeOf (c : Config) (w : Word) : Channel :=
  match decodeHost w with
  | .ok _ => .host
  | .rejected _ =>
    match decodeCommand c w with
    | .ok _ => .command
    | .rejected _ => .response

/-- A word of the opcode table, from a table number: the bits above `nbits` are 0. -/
def tableWord (nbits w : Nat) : Word := BitVec.ofNat 32 (w % 2 ^ nbits)

/-- The instruction the decoders read from a table word (default parameters, log entry 5). -/
def decodeTableWord (nbits w : Nat) : Option Instr :=
  match decode Config.default (placeOf Config.default (tableWord nbits w)) (tableWord nbits w) with
  | .ok i => some i
  | .rejected _ => none

end Sys2Proof
end

