-- ==== Sys2Proof/Machine/State.lean ====
section
/-! DEFINITION. The state of the machine: every register of the block (10_state.md), the port values of the latest
step, the transport's receive queue and rate, and what the world outside presents. -/

namespace Sys2Proof.Machine

/-- `S.state` (rule R22). The codes 8 to 15 are never reached and have no constructor. -/
inductive EngState where
  | rst
  | idle
  | tx
  | rx
  | check
  | negCfg
  | negSettle
  | negFallback
  deriving DecidableEq, Repr

/-- `S.origin`: who issued the transaction in flight (rule R24). -/
inductive Origin where
  | host
  | neg
  deriving DecidableEq, Repr

/-- `result.kind` (rules R27 and R200). The codes 9 to 15 are never produced and have no constructor. -/
inductive Kind where
  | none
  | txnOk
  | txnTimeout
  | txnChecksum
  | txnCe
  | negOk
  | negFail
  | cfgDone
  | illegal
  deriving DecidableEq, Repr

/-- `S.result`, and the outcome type of a command (rules R18 and R27). -/
structure Result where
  kind : Kind
  status : Status
  reg : Byte
  data : Half
  echoMm : Bool
  deriving DecidableEq, Repr

/-- `S.last`, the last-response cache (rule R28). -/
structure Last where
  valid : Bool
  status : Status
  reg : Byte
  data : Half
  deriving DecidableEq, Repr

/-- The Mealy outputs of one step (rules R41 to R43). A port with a valid bit is an `Option`: its valid bit is whether
a value stands there, and its data lines mean nothing when none does. `cmd_ready` and `csr_rdata` are functions of the
current state and stand in `Sys2Proof.Machine.Csr`. DESIGN CHOICE (log entry 8). -/
structure Outputs where
  /-- `done`. -/
  done : Bool
  /-- `tx_valid` and `tx_data`. -/
  tx : Option Word
  /-- `rx_pop`. -/
  rxPop : Bool
  /-- `cfg_valid` and `cfg_baud`. -/
  cfg : Option Rate
  /-- `diag_valid`, `diag_code` and `diag_info`. -/
  diag : Option (Nibble × Half)
  deriving DecidableEq, Repr

/-- No port active. -/
def Outputs.quiet : Outputs := { done := false, tx := none, rxPop := false, cfg := none, diag := none }

/-- The transport as the block meets it (rules R42 and R56): its receive queue, oldest byte first, the rate it is
configured at, and its monotonic clock in milliseconds, counted without wrap; the port `now_ms` is the count's low 32
bits (`nowMs`). It is no state of the block, and reset leaves it alone (rule R234). -/
structure Transport where
  rxq : List Byte
  rate : Rate
  time : Nat
  deriving DecidableEq, Repr

/-- The world outside (rule R7): the ports it drives in the current step, what it will do in the next steps as far as
a script says, how many unscripted steps have been drawn from `Config.freeInput`, and how many of the latest of them
passed in the same millisecond. The last three are the model's own. -/
structure Env where
  inp : Inputs
  script : List EnvStep
  drawn : Nat
  stalled : Nat
  deriving DecidableEq, Repr

/-- The machine. The block's own registers stand first, under the spec's names (rules R22 to R31). -/
structure State where
  cfg : Config
  state : EngState
  reqReg : Byte
  reqVal : Half
  reqW : Bool
  reqTc : Bool
  origin : Origin
  t0 : Word
  tCfg : Word
  rxbuf : Packet
  rxCnt : Idx
  result : Result
  last : Last
  verbose : Bool
  baud : Rate
  baudOk : Bool
  accIdx : Idx
  negIdx : Idx
  out : Outputs
  line : Transport
  env : Env
  deriving DecidableEq, Repr

/-- Why the machine stops. The block has no traps (rule R204); no instruction, no reset and no port raises one of
these, and no state that `StateInv` (Safety.lean) admits does. DESIGN CHOICE (log entry 7). -/
inductive Fault where
  /-- An RX step would take a byte while `S.rx_cnt` is above 3, where rule R26 gives the buffer no byte. Raised by the
  receive step only. Safe: no run reaches it. -/
  | rxCountOutOfRange
  /-- A NEG_CFG step would configure a candidate while `S.neg_idx` is not below `N_BAUD`, which rule R31 excludes.
  Raised by the candidate step only. Safe: no run reaches it. -/
  | candidateIndexOutOfRange
  deriving DecidableEq, Repr

/-- Why a step is refused. -/
inductive Refusal where
  /-- An instruction without a meaning; raised by an arm of `exec` alone, and by none now. Safe. -/
  | notModelled (mnemonic : String)
  deriving DecidableEq, Repr

/-- The outcome of a command that records nothing but its kind (rule R201). -/
abbrev Result.plain (k : Kind) : Result := { kind := k, status := 0#2, reg := 0#8, data := 0#16, echoMm := false }

/-- The empty last-response cache (rule R45). -/
abbrev Last.empty : Last := { valid := false, status := 0#2, reg := 0#8, data := 0#16 }

/-- The machine right after reset (rule R45). What stands outside the block has no reset value in the spec: the
quiet inputs, the empty queue, the clock and the transport's rate are log entries 1 and 2. -/
def State.reset : State where
  cfg := Config.default
  state := .rst
  reqReg := 0#8
  reqVal := 0#16
  reqW := false
  reqTc := false
  origin := .host
  t0 := 0#32
  tCfg := 0#32
  rxbuf := { b0 := 0#8, b1 := 0#8, b2 := 0#8, b3 := 0#8 }
  rxCnt := 0#3
  result := .plain .none
  last := .empty
  verbose := false
  baud := Config.default.baudReset
  baudOk := false
  accIdx := 7#3
  negIdx := 0#3
  out := .quiet
  line := { rxq := [], rate := Config.default.baudReset, time := 0 }
  env :=
    { inp := { rst := false, cmdValid := false, cmdWord := 0#32, csrSel := 0#3 }, script := [], drawn := 0, stalled := 0 }

end Sys2Proof.Machine
end

