-- ==== Sys2Proof/Machine/Flags.lean ====
section
/-! DEFINITION. The comparisons and flag-like values (rules R32, R147, R174): deadlines, the echo mismatch, the probe's
success, and the codes of the named states and kinds. -/

namespace Sys2Proof.Machine

/-- The code of `S.state` (rule R22). -/
def stateCode : EngState → Nibble
  | .rst => 0#4
  | .idle => 1#4
  | .tx => 2#4
  | .rx => 3#4
  | .check => 4#4
  | .negCfg => 5#4
  | .negSettle => 6#4
  | .negFallback => 7#4

/-- The code of `result.kind` (rule R200). -/
def kindCode : Kind → Nibble
  | .none => 0#4
  | .txnOk => 1#4
  | .txnTimeout => 2#4
  | .txnChecksum => 3#4
  | .txnCe => 4#4
  | .negOk => 5#4
  | .negFail => 6#4
  | .cfgDone => 7#4
  | .illegal => 8#4

/-- `S.origin` as a bit (rule R24). -/
def originBit : Origin → Bool
  | .host => false
  | .neg => true

/-- `now_ms` in the current step: the low 32 bits of the transport's clock (rules R14, R42, R212). -/
def nowMs (s : State) : Word := BitVec.ofNat 32 s.line.time

/-- Elapsed time, an unsigned 32-bit difference, right across one wrap (rule R147). -/
def elapsed (now since : Word) : Word := now - since

/-- `T(tc)` (rules R147 and R152). -/
def deadline (c : Config) (tc : Bool) : Word := if tc then c.tMon else c.tGen

/-- Whether the deadline ends an RX step (rules R142 and R207). A byte waiting exactly at the deadline is still taken
only where the parameter of 93 item I17 says so (DEDUCED, log entry 6); by default the deadline wins. -/
def expired (c : Config) (tc : Bool) (e : Word) (waiting : Bool) : Bool :=
  decide (deadline c tc ≤ e) && !(c.deadlineInclusive && waiting && decide (e = deadline c tc))

/-- Whether the settling wait is over (rule R173). -/
def settled (c : Config) (e : Word) : Bool := decide (c.tSettle ≤ e)

/-- The echo mismatch (rule R145). -/
def echoMismatch (echoed requested : Byte) : Bool := echoed != requested

/-- Whether a probe's outcome accepts its candidate, whatever the echo (rule R174). -/
def probeSucceeds (o : Result) : Bool := o.kind == .txnOk && o.status == 0#2

end Sys2Proof.Machine
end

