-- ==== Sys2Proof/Machine/Ops.lean ====
section
/-! DEFINITION. The named operations every step is made of: the transport primitives of rule R17, the completion
procedure that stands where another machine takes an exception (rules R146 and R208), and the passage from one step to
the next. Each reads the state it is given and writes only what its rule names. -/

namespace Sys2Proof.Machine

/-- The outputs before a step drives any of them: no port is active. -/
def quiet (s : State) : State := { s with out := .quiet }

/-- `TxWrite(p)` (rules R17 and R42). -/
def txWrite (p : Packet) (s : State) : State := { s with out := { s.out with tx := some (wordOfPacket p) } }

/-- `Configure(b)`, and `S.baud <- b` with it: every step that configures does both (rules R30, R56 (c), R172, R176,
R231). -/
def configure (b : Rate) (s : State) : State :=
  { s with baud := b, out := { s.out with cfg := some b }, line := { s.line with rate := b } }

/-- `RxPop()`, the head byte taken into the receive buffer (rules R42, R56 (b) and R141): `rest` is the queue without
its head `b`. -/
def rxTake (b : Byte) (rest : List Byte) (s : State) : State :=
  { s with
    rxbuf := putByte s.rxbuf s.rxCnt b
    rxCnt := s.rxCnt + 1#3
    out := { s.out with rxPop := true }
    line := { s.line with rxq := rest } }

/-- `Diag(1, req_reg ++ r.reg)` where the echo differs and the verbosity flag is set (rules R43, R145, R215). -/
def diagEcho (echoed : Byte) (s : State) : State :=
  if echoMismatch echoed s.reqReg && s.verbose then
    { s with out := { s.out with diag := some (0x1#4, s.reqReg ++ echoed) } }
  else s

/-- A command ends: its outcome is written, `done` is raised and the engine is ready (rules R41, R146, R208). -/
def finish (o : Result) (s : State) : State :=
  { s with result := o, state := .idle, out := { s.out with done := true } }

/-- NegStep: a probe's outcome goes to the negotiation sequencer only (rules R174 and R175). -/
def negStep (o : Result) (s : State) : State :=
  if probeSucceeds o then { finish { o with kind := .negOk } s with baudOk := true, accIdx := s.negIdx }
  else if s.negIdx.toNat + 1 < s.cfg.nBaud then { s with negIdx := s.negIdx + 1#3, state := .negCfg }
  else { s with state := .negFallback }

/-- `Complete(o)` (rule R146). -/
def complete (o : Result) (s : State) : State :=
  match s.origin with
  | .host => finish o s
  | .neg => negStep o s

/-- The request latch of an accepted TXN, and the move to TX (rule R130). -/
def acceptTxn (w tc : Bool) (reg : Byte) (value : Half) (s : State) : State :=
  { s with reqReg := reg, reqVal := value, reqW := w, reqTc := tc, origin := .host, state := .tx }

/-- The TX step with the packet it sends (rule R140). -/
def sendRequest (p : Packet) (s : State) : State :=
  { txWrite p s with t0 := nowMs s, rxCnt := 0#3, state := .rx }

/-- The CHECK step on a response whose CE is 0 (rule R145): the cache, the diagnostic and the completion. -/
def acceptResponse (status : Status) (reg : Byte) (data : Half) (s : State) : State :=
  complete { kind := .txnOk, status := status, reg := reg, data := data, echoMm := echoMismatch reg s.reqReg }
    (diagEcho reg { s with last := { valid := true, status := status, reg := reg, data := data } })

/-- The transport between two steps: milliseconds pass and bytes arrive, behind those already queued (rule R56 (b)
and (d)). -/
def Transport.pass (ms : Word) (arrivals : List Byte) (l : Transport) : Transport :=
  { l with rxq := l.rxq ++ arrivals, time := l.time + ms.toNat }

/-- The milliseconds that pass before an unscripted step: the free ones, but at least one once the standstill has
lasted as long as it may (rule R56 (d): time passes). -/
def freeMs (v : Env) : Word :=
  if (Config.freeInput v.drawn).ms = 0#32 ∧ Config.freeStall (v.drawn - v.stalled) ≤ v.stalled then 1#32
  else (Config.freeInput v.drawn).ms

/-- The next step begins: the world's next inputs, from the script or else free, and the milliseconds and bytes that
come before that step's sample (rules R44, R56 (b) and (d), R213). -/
def advance (s : State) : State :=
  match s.env.script with
  | e :: rest => { s with line := s.line.pass e.ms e.arrivals, env := { s.env with inp := e.inp, script := rest } }
  | [] =>
    { s with
      line := s.line.pass (freeMs s.env) (Config.freeInput s.env.drawn).arrivals
      env := {
        inp := (Config.freeInput s.env.drawn).inp
        script := []
        drawn := s.env.drawn + 1
        stalled := if freeMs s.env = 0#32 then s.env.stalled + 1 else 0 } }

/-- `f` after an outcome that is a next state; a stop stays a stop. -/
def andThen (f : State → State) : Host.Outcome State Fault Refusal → Host.Outcome State Fault Refusal
  | .next s => .next (f s)
  | .fault r => .fault r
  | .refused r => .refused r

end Sys2Proof.Machine
end

