-- ==== Sys2Proof/Machine/HostCommand.lean ====
section
/-! DEFINITION. The meanings of the four host commands and of an illegal host word: what the step that accepts one
does. TXN and NEGOTIATE go on in the steps that follow, SETVERB and ILLEGAL complete at once (rules R130, R171, R180,
R182). -/

namespace Sys2Proof.Machine

/-- TXN.RD (rules R130 and R150). -/
def execTxnRd (tc : Bool) (reg : Byte) (value : Half) (s : State) : Host.Outcome State Fault Refusal :=
  .next (acceptTxn false tc reg value s)

/-- TXN.WR (rules R130 and R151). -/
def execTxnWr (tc : Bool) (reg : Byte) (value : Half) (s : State) : Host.Outcome State Fault Refusal :=
  .next (acceptTxn true tc reg value s)

/-- NEGOTIATE (rules R170 and R171). -/
def execNegotiate (s : State) : Host.Outcome State Fault Refusal :=
  .next { s with baudOk := false, accIdx := 7#3, negIdx := 0#3, state := .negCfg }

/-- SETVERB (rule R180). -/
def execSetverb (v : Bool) (s : State) : Host.Outcome State Fault Refusal :=
  .next (finish (.plain .cfgDone) { s with verbose := v })

/-- An illegal host word, whatever the reason (rules R80 and R182). -/
def execIllegal (s : State) : Host.Outcome State Fault Refusal :=
  .next (finish (.plain .illegal) s)

end Sys2Proof.Machine
end

