-- ==== Sys2Proof/Machine/WireCommand.lean ====
section
/-! DEFINITION. The meanings of the two packets the block sends: the TX step that encodes and sends one
(rules R104, R111, R112, R140). -/

namespace Sys2Proof.Machine

/-- CMD.RD (rules R111 and R140). -/
def execCmdRd (reg : Byte) (value : Half) (s : State) : Host.Outcome State Fault Refusal :=
  .next (sendRequest (requestPacket s.cfg reg value false) s)

/-- CMD.WR (rules R112 and R140). -/
def execCmdWr (reg : Byte) (value : Half) (s : State) : Host.Outcome State Fault Refusal :=
  .next (sendRequest (requestPacket s.cfg reg value true) s)

end Sys2Proof.Machine
end

