-- ==== Sys2Proof/Machine/WireResponse.lean ====
section
/-! DEFINITION. The meanings of the six kinds of received packet: the CHECK step that meets one (rules R113 to R118,
R143 to R146). The fields a kind does not use are arguments its definition ignores. -/

namespace Sys2Proof.Machine

/-- RSP.BAD: TXN_CHECKSUM, and no field is used (rules R108, R113, R143). -/
def execRspBad (_chk _low : Nibble) (_reg : Byte) (_data : Half) (s : State) : Host.Outcome State Fault Refusal :=
  .next (complete (.plain .txnChecksum) s)

/-- RSP.CE: TXN_CE, without further parsing (rules R114 and R144). -/
def execRspCe (_rsv : Bool) (_status : Status) (_reg : Byte) (_data : Half) (s : State) :
    Host.Outcome State Fault Refusal :=
  .next (complete (.plain .txnCe) s)

/-- RSP.OK (rules R115 and R145). -/
def execRspOk (_rsv : Bool) (reg : Byte) (data : Half) (s : State) : Host.Outcome State Fault Refusal :=
  .next (acceptResponse 0#2 reg data s)

/-- RSP.XE (rules R116 and R145). -/
def execRspXe (_rsv : Bool) (reg : Byte) (data : Half) (s : State) : Host.Outcome State Fault Refusal :=
  .next (acceptResponse 1#2 reg data s)

/-- RSP.AEA (rules R117 and R145). -/
def execRspAea (_rsv : Bool) (reg : Byte) (data : Half) (s : State) : Host.Outcome State Fault Refusal :=
  .next (acceptResponse 2#2 reg data s)

/-- RSP.CP: passed through like any other status (rules R118, R145, R149). -/
def execRspCp (_rsv : Bool) (reg : Byte) (data : Half) (s : State) : Host.Outcome State Fault Refusal :=
  .next (acceptResponse 3#2 reg data s)

end Sys2Proof.Machine
end

