-- ==== Sys2Proof/Machine/Dispatch.lean ====
section
/-! DEFINITION. One arm per instruction, each a direct call of its meaning. -/

namespace Sys2Proof.Machine

def exec (i : Instr) (s : State) : Host.Outcome State Fault Refusal :=
  match i with
  | .txnRd tc reg value => Sys2Proof.Machine.execTxnRd tc reg value s
  | .txnWr tc reg value => Sys2Proof.Machine.execTxnWr tc reg value s
  | .negotiate => Sys2Proof.Machine.execNegotiate s
  | .setverb v => Sys2Proof.Machine.execSetverb v s
  | .cmdRd reg value => Sys2Proof.Machine.execCmdRd reg value s
  | .cmdWr reg value => Sys2Proof.Machine.execCmdWr reg value s
  | .rspBad chk low reg data => Sys2Proof.Machine.execRspBad chk low reg data s
  | .rspCe rsv status reg data => Sys2Proof.Machine.execRspCe rsv status reg data s
  | .rspOk rsv reg data => Sys2Proof.Machine.execRspOk rsv reg data s
  | .rspXe rsv reg data => Sys2Proof.Machine.execRspXe rsv reg data s
  | .rspAea rsv reg data => Sys2Proof.Machine.execRspAea rsv reg data s
  | .rspCp rsv reg data => Sys2Proof.Machine.execRspCp rsv reg data s

end Sys2Proof.Machine
end

