-- ==== Sys2Proof/Machine/Sequencer.lean ====
section
/-! DEFINITION. What a step runs, and the steps that run no instruction: reset, RST, IDLE without a command, RX,
NEG_CFG, NEG_SETTLE and NEG_FALLBACK (rules R141, R142, R172, R173, R176, R182, R230, R231). -/

namespace Sys2Proof.Machine

/-- The steps that run no instruction of the table. -/
inductive Micro where
  /-- A step with `rst = 1` (rule R230). -/
  | reset
  /-- The RST step (rule R231). -/
  | boot
  /-- IDLE, and no command presented (rule R251). -/
  | rest
  /-- IDLE, and a word presented that selects no row (rule R182). -/
  | illegal (e : DecodeError)
  /-- An RX step (rules R141 and R142). -/
  | receive
  /-- A NEG_CFG step (rule R172). -/
  | candidate
  /-- A NEG_SETTLE step (rule R173). -/
  | settle
  /-- A NEG_FALLBACK step (rule R176). -/
  | fallback
  deriving DecidableEq, Repr

/-- What a step runs. -/
inductive Fetched where
  | instr (i : Instr)
  | micro (m : Micro)
  deriving DecidableEq, Repr

/-- The packet a TX step sends, as an instruction (rules R111, R112, R140). -/
def latchedRequest (s : State) : Instr :=
  if s.reqW then .cmdWr s.reqReg s.reqVal else .cmdRd s.reqReg s.reqVal

/-- What the step in this state runs. Reset comes before every other rule (rules R207 and R230); a command is met
only in IDLE (rule R41); a received packet only in CHECK (rules R26 and R143 to R145). -/
def fetch (s : State) : Fetched :=
  if s.env.inp.rst then .micro .reset
  else
    match s.state with
    | .rst => .micro .boot
    | .idle =>
      if s.env.inp.cmdValid then
        match decode s.cfg .host s.env.inp.cmdWord with
        | .ok i => .instr i
        | .rejected e => .micro (.illegal e)
      else .micro .rest
    | .tx => .instr (latchedRequest s)
    | .rx => .micro .receive
    | .check => .instr (classify s.cfg s.rxbuf)
    | .negCfg => .micro .candidate
    | .negSettle => .micro .settle
    | .negFallback => .micro .fallback

/-- The block's registers at their reset values; the transport, the world and the parameters stay
(rules R45, R230, R232, R234). -/
def resetBlock (s : State) : State :=
  { State.reset with cfg := s.cfg, baud := s.cfg.baudReset, line := s.line, env := s.env }

/-- The RST step (rule R231). -/
def bootStep (s : State) : State := { configure s.cfg.baudReset s with state := .idle }

/-- An RX step: the deadline before the byte, at most one byte, CHECK after the fourth (rules R141, R142, R207). -/
def receiveStep (s : State) : Host.Outcome State Fault Refusal :=
  if expired s.cfg s.reqTc (elapsed (nowMs s) s.t0) (!s.line.rxq.isEmpty) then
    .next (complete (.plain .txnTimeout) s)
  else
    match s.line.rxq with
    | [] => .next s
    | b :: rest =>
      if 3#3 < s.rxCnt then .fault .rxCountOutOfRange
      else if s.rxCnt = 3#3 then .next { rxTake b rest s with state := .check }
      else .next (rxTake b rest s)

/-- A NEG_CFG step (rule R172). -/
def candidateStep (s : State) : Host.Outcome State Fault Refusal :=
  match s.cfg.baudList[s.negIdx.toNat]? with
  | some b => .next { configure b s with tCfg := nowMs s, state := .negSettle }
  | none => .fault .candidateIndexOutOfRange

/-- A NEG_SETTLE step: the wait, then the probe of the NOP register (rule R173). -/
def settleStep (s : State) : State :=
  if settled s.cfg (elapsed (nowMs s) s.tCfg) then
    { s with reqReg := s.cfg.nopReg, reqVal := 0#16, reqW := false, reqTc := false, origin := .neg, state := .tx }
  else s

/-- A NEG_FALLBACK step (rule R176). -/
def fallbackStep (s : State) : State :=
  finish (.plain .negFail) { configure s.cfg.baudFallback s with baudOk := false, accIdx := 7#3 }

/-- A step that runs no instruction. -/
def runMicro (m : Micro) (s : State) : Host.Outcome State Fault Refusal :=
  match m with
  | .reset => .next (resetBlock s)
  | .boot => .next (bootStep s)
  | .rest => .next s
  | .illegal _ => execIllegal s
  | .receive => receiveStep s
  | .candidate => candidateStep s
  | .settle => .next (settleStep s)
  | .fallback => .next (fallbackStep s)

/-- The state in which the next step runs the instruction a word encodes in its place: a command word on the command
port of an idle engine, a request in the latch of an engine in TX, a response in the full buffer of an engine in
CHECK. -/
def presentWord (s : State) (w : Word) : State :=
  match placeOf s.cfg w with
  | .host =>
    { s with state := .idle, env := { s.env with inp := { s.env.inp with rst := false, cmdValid := true, cmdWord := w } } }
  | .command =>
    { s with
      state := .tx
      reqReg := regField w
      reqVal := valueField w
      reqW := w.getLsbD 27
      env := { s.env with inp := { s.env.inp with rst := false } } }
  | .response =>
    { s with
      state := .check
      rxbuf := packetOfWord w
      rxCnt := 4#3
      env := { s.env with inp := { s.env.inp with rst := false } } }

end Sys2Proof.Machine
end

