-- ==== Sys2Proof/Machine/Step.lean ====
section
/-! DEFINITION. One clock cycle: the outputs start inactive, the fetched instruction or micro-step runs, the world's
next inputs come in (rules R17 and R44). -/

namespace Sys2Proof.Machine

/-- Running what was fetched. -/
def perform (f : Fetched) (s : State) : Host.Outcome State Fault Refusal :=
  match f with
  | .instr i => exec i s
  | .micro m => runMicro m s

/-- One step of the machine. -/
def step (s : State) : Host.Outcome State Fault Refusal :=
  andThen advance (perform (fetch s) (quiet s))

/-- `s` with a word of the opcode table standing where the next step takes its instruction from (log entry 5). -/
def State.withFetchWord (s : State) (nbits w : Nat) : State := presentWord s (tableWord nbits w)

end Sys2Proof.Machine
end

