-- ==== Sys2Proof/Machine/Csr.lean ====
section
/-! DEFINITION. The outputs that are combinational functions of the current state: the CSR read port (rules R33 to
R40) and `cmd_ready` (rule R41). -/

namespace Sys2Proof.Machine

/-- CSR 0, CTRL (rule R34). -/
def csrCtrl (s : State) : Word := 0#31 ++ BitVec.ofBool s.verbose

/-- CSR 1, BAUD (rule R35). -/
def csrBaud (s : State) : Word := BitVec.ofBool s.baudOk ++ 0#4 ++ s.accIdx ++ s.baud

/-- CSR 2, LASTRSP (rule R36). -/
def csrLastRsp (s : State) : Word := BitVec.ofBool s.last.valid ++ 0#5 ++ s.last.status ++ s.last.reg ++ s.last.data

/-- CSR 3, RESULT (rule R37). -/
def csrResult (s : State) : Word :=
  kindCode s.result.kind ++ BitVec.ofBool s.result.echoMm ++ 0#1 ++ s.result.status ++ s.result.reg ++ s.result.data

/-- CSR 4, ENGSTAT (rule R38). -/
def csrEngStat (s : State) : Word :=
  0#19 ++ BitVec.ofBool (originBit s.origin) ++ 0#1 ++ s.negIdx ++ 0#1 ++ s.rxCnt ++ stateCode s.state

/-- The CSR with a number; 5, 6 and 7 read 0 (rule R39). -/
def csrRead (s : State) (n : Idx) : Word :=
  if n = 0#3 then csrCtrl s
  else if n = 1#3 then csrBaud s
  else if n = 2#3 then csrLastRsp s
  else if n = 3#3 then csrResult s
  else if n = 4#3 then csrEngStat s
  else 0#32

/-- `csr_rdata` in the current step (rule R33). -/
def csrRdata (s : State) : Word := csrRead s s.env.inp.csrSel

/-- `cmd_ready` in the current step (rule R41). -/
def cmdReady (s : State) : Bool := decide (s.state = .idle)

/-- `rx_avail` in the current step (rule R56 (b)). -/
def rxAvail (s : State) : Bool := !s.line.rxq.isEmpty

end Sys2Proof.Machine
end

