-- ==== Sys2Proof/Machine/Assembler.lean ====
section
/-! DEFINITION. The host's side of the command port: the assembler's lines and words (rules R83 and R84), the
pseudo-instructions (rule R85), the boot sequence (rule R235), and what a host reads out of a data word (rules R203,
R241). The block sees only the words. -/

namespace Sys2Proof.Machine

/-- The assembler's command forms (rule R84); a short read writes VALUE 0. -/
inductive AsmForm where
  | txnRd (reg value : Nat)
  | txnRdMon (reg value : Nat)
  | txnWr (reg value : Nat)
  | txnWrMon (reg value : Nat)
  | negotiate
  | setverb (v : Nat)
  deriving DecidableEq, Repr

/-- A TXN word from the first bits of rule R84 and the operands, or the assembler error for an operand outside its
range, which is never truncated. -/
def asmTxn (base : Word) (reg value : Nat) : Option Word :=
  if reg < 256 ∧ value < 65536 then some (base ||| BitVec.ofNat 32 reg <<< 16 ||| BitVec.ofNat 32 value) else none

/-- The word of a command form (rule R84). -/
def assemble : AsmForm → Option Word
  | .txnRd reg value => asmTxn 0x10000000#32 reg value
  | .txnRdMon reg value => asmTxn 0x14000000#32 reg value
  | .txnWr reg value => asmTxn 0x18000000#32 reg value
  | .txnWrMon reg value => asmTxn 0x1C000000#32 reg value
  | .negotiate => some 0x20000000#32
  | .setverb v => if v < 2 then some (0x30000000#32 ||| BitVec.ofNat 32 v) else none

/-- What a host does at the block's ports, one thing after another; each command waits for the `done` of the one
before it (rules R85 and R235). -/
inductive HostAction where
  /-- Hold `rst` for at least one step, then release it. -/
  | assertReset
  /-- Wait until `cmd_ready` is 1. -/
  | waitReady
  /-- Present a word until it is accepted, and wait for `done`. -/
  | issue (w : Word)
  deriving DecidableEq, Repr

/-- The pseudo-instructions (rule R85). -/
inductive Pseudo where
  | probe
  | geterr
  | wr32 (rh rl x : Nat)
  | beginSession (v : Nat)
  deriving DecidableEq, Repr

/-- One command to present, if its operands are in range. -/
def issueForm (f : AsmForm) : Option (List HostAction) := (assemble f).map fun w => [.issue w]

/-- The expansion of a pseudo-instruction (rules R85, R235 and R242: a 32-bit write sends its high word first). -/
def expandPseudo (c : Config) : Pseudo → Option (List HostAction)
  | .probe => issueForm (.txnRd c.nopReg.toNat 0)
  | .geterr => issueForm (.txnRd c.nopReg.toNat 0)
  | .wr32 rh rl x =>
    if x < 2 ^ 32 then
      match assemble (.txnWr rh (x / 65536)), assemble (.txnWr rl (x % 65536)) with
      | some hi, some lo => some [.issue hi, .issue lo]
      | _, _ => none
    else none
  | .beginSession v =>
    match assemble (.setverb v), assemble .negotiate with
    | some sv, some ng => some [.assertReset, .waitReady, .issue sv, .issue ng]
    | _, _ => none

/-- Whether `begin` returns true (rule R235). -/
def beginReturns (s : State) : Bool := s.result.kind == .negOk

/-! The text of a line (rule R83): mnemonic first, operands separated by commas, numbers decimal or with 0x, and a
semicolon before a comment. -/

def isBlank (ch : Char) : Bool := ch == ' ' || ch == '\t'

def trimBlanks (cs : List Char) : List Char := ((cs.dropWhile isBlank).reverse.dropWhile isBlank).reverse

/-- The parts of a text between commas. -/
def splitCommas : List Char → List (List Char)
  | [] => [[]]
  | ch :: cs =>
    if ch == ',' then [] :: splitCommas cs
    else
      match splitCommas cs with
      | part :: parts => (ch :: part) :: parts
      | [] => [[ch]]

/-- The value of a digit in a base of at most 16. -/
def digitValue (base : Nat) (ch : Char) : Option Nat :=
  let n :=
    if '0' ≤ ch ∧ ch ≤ '9' then ch.toNat - '0'.toNat
    else if 'a' ≤ ch ∧ ch ≤ 'f' then ch.toNat - 'a'.toNat + 10
    else if 'A' ≤ ch ∧ ch ≤ 'F' then ch.toNat - 'A'.toNat + 10
    else base
  if n < base then some n else none

/-- The number a run of digits stands for, after `acc`. -/
def digitsValue (base : Nat) : Nat → List Char → Option Nat
  | acc, [] => some acc
  | acc, ch :: cs =>
    match digitValue base ch with
    | some d => digitsValue base (acc * base + d) cs
    | none => none

/-- A decimal number, or a hexadecimal one after 0x. -/
def numberValue (cs : List Char) : Option Nat :=
  match cs with
  | [] => none
  | '0' :: 'x' :: ch :: rest => digitsValue 16 0 (ch :: rest)
  | _ => digitsValue 10 0 cs

/-- The operands of a line, or none where one of them is not a number. -/
def operandValues (cs : List Char) : Option (List Nat) :=
  if (trimBlanks cs).isEmpty then some [] else (splitCommas cs).mapM fun part => numberValue (trimBlanks part)

/-- The actions of one line; a line without a command has none, and an unknown form or an operand out of range is an
assembler error. -/
def assembleLine (c : Config) (line : List Char) : Option (List HostAction) :=
  let text := trimBlanks (line.takeWhile (· != ';'))
  let mnemonic := String.ofList (text.takeWhile fun ch => !isBlank ch)
  if text.isEmpty then some []
  else
    match mnemonic, operandValues (text.dropWhile fun ch => !isBlank ch) with
    | "txn.rd", some [r] => issueForm (.txnRd r 0)
    | "txn.rd", some [r, v] => issueForm (.txnRd r v)
    | "txn.rd.mon", some [r] => issueForm (.txnRdMon r 0)
    | "txn.rd.mon", some [r, v] => issueForm (.txnRdMon r v)
    | "txn.wr", some [r, v] => issueForm (.txnWr r v)
    | "txn.wr.mon", some [r, v] => issueForm (.txnWrMon r v)
    | "negotiate", some [] => issueForm .negotiate
    | "setverb", some [v] => issueForm (.setverb v)
    | "probe", some [] => expandPseudo c .probe
    | "geterr", some [] => expandPseudo c .geterr
    | "wr32", some [rh, rl, x] => expandPseudo c (.wr32 rh rl x)
    | "begin", some [v] => expandPseudo c (.beginSession v)
    | _, _ => none

/-- The device's execution-error causes (rule R203). No rule of the block depends on them. -/
inductive ErrorCause where
  | noError
  | notImplemented
  | notWritable
  | valueOutOfRange
  | pendingConflict
  | initInProgress
  | addressRange
  | readOnlyAddress
  | executionFailure
  | outputInhibited
  | invalidConfiguration
  | reserved
  | vendorSpecific
  deriving DecidableEq, Repr

/-- The numbering of rule R203. -/
def errorCause (code : Nibble) : ErrorCause :=
  match code.toNat with
  | 0 => .noError
  | 1 => .notImplemented
  | 2 => .notWritable
  | 3 => .valueOutOfRange
  | 4 => .pendingConflict
  | 5 => .initInProgress
  | 6 => .addressRange
  | 7 => .readOnlyAddress
  | 8 => .executionFailure
  | 9 => .outputInhibited
  | 10 => .invalidConfiguration
  | 15 => .vendorSpecific
  | _ => .reserved

/-- What `geterr` takes from RESULT: `data[3:0]` (rule R85). -/
def geterrCode (s : State) : Nibble := s.result.data.extractLsb' 0 4

/-- The characters of a string word, high byte first (rules R55 and R241). -/
def stringBytes (data : Half) : List Byte := [data.extractLsb' 8 8, data.extractLsb' 0 8]

end Sys2Proof.Machine
end

