-- ==== Sys2Proof/Safety.lean ====
section
/-! DEFINITION. The invariant of the machine and the terms claims are stated in: what a run is, which steps end a
command, and what a statement about the block leaves out of account. -/

namespace Sys2Proof.Machine

/-- The engine is between the accept step of a NEGOTIATE and its end: in one of the three NEG states, or in a
transaction the sequencer issued (rules R24 and R31). -/
abbrev negotiating (s : State) : Prop :=
  s.state = .negCfg ∨ s.state = .negSettle ∨ s.state = .negFallback
    ∨ ((s.state = .tx ∨ s.state = .rx ∨ s.state = .check) ∧ s.origin = .neg)

/-- A probe transaction is in flight. -/
abbrev probing (s : State) : Prop := (s.state = .tx ∨ s.state = .rx ∨ s.state = .check) ∧ s.origin = .neg

/-- What holds of every state a run from reset reaches, and is kept by every step. -/
structure StateInv (s : State) : Prop where
  /-- The parameters are what the spec asks of them. -/
  wf : s.cfg.wf
  /-- The receive buffer is never filled past its four bytes (rule R26). -/
  countLeFour : s.rxCnt.toNat ≤ 4
  /-- RX waits for a byte that has a place in the buffer (rules R26 and R141). -/
  countInRx : s.state = .rx → s.rxCnt.toNat ≤ 3
  /-- CHECK meets a full buffer (rule R26). -/
  countInCheck : s.state = .check → s.rxCnt = 4#3
  /-- The candidate index is an index of `BAUD_LIST` (rule R31). -/
  indexInList : s.negIdx.toNat < s.cfg.nBaud
  /-- While `baud_ok` is 1, `acc_idx` is the accepted candidate and `baud` its rate (rule R30). -/
  accepted : s.baudOk = true → s.accIdx.toNat < s.cfg.nBaud ∧ s.cfg.baudList[s.accIdx.toNat]? = some s.baud
  /-- While `baud_ok` is 0, `acc_idx` says none (rule R30). -/
  noneAccepted : s.baudOk = false → s.accIdx = 7#3
  /-- Between a reset and the end of its RST step nothing is accepted, and `baud` is the reset rate (rule R45). -/
  resetRate : s.state = .rst → s.baudOk = false ∧ s.baud = s.cfg.baudReset
  /-- From then on the transport runs at the rate `baud` shows (rules R30 and R231). -/
  rate : s.state ≠ .rst → s.line.rate = s.baud
  /-- A negotiation in progress has accepted nothing (rule R171). -/
  negotiatingNone : negotiating s → s.baudOk = false
  /-- The settling wait and the probe run at the candidate's rate (rule R172). -/
  candidateRate : s.state = .negSettle ∨ probing s → s.cfg.baudList[s.negIdx.toNat]? = some s.baud
  /-- A probe is the NOP read with the general deadline (rule R173). -/
  probeIsNop : probing s → s.reqReg = s.cfg.nopReg ∧ s.reqVal = 0#16 ∧ s.reqW = false ∧ s.reqTc = false
  /-- An outcome that is neither TXN_OK nor NEG_OK records nothing but its kind (rule R201). -/
  failedRecordsNothing : s.result.kind ≠ .txnOk → s.result.kind ≠ .negOk → s.result = .plain s.result.kind
  /-- NEG_OK is recorded with status 0 (rule R174). -/
  acceptedStatus : s.result.kind = .negOk → s.result.status = 0#2
  /-- A cache that holds no response holds zeros (rules R28 and R45). -/
  emptyCache : s.last.valid = false → s.last = .empty
  /-- The send time is a sample of the clock that is not ahead of it (rules R25 and R56 (d)). -/
  sendInPast : s.t0.toNat ≤ s.line.time
  /-- The configure time is a sample of the clock that is not ahead of it (rules R25 and R56 (d)). -/
  configureInPast : s.tCfg.toNat ≤ s.line.time

/-- The machine goes from `s` to `t` in `k` steps, stopping nowhere. -/
abbrev RunsTo (k : Nat) (s t : State) : Prop := Host.Core.run Sys2Proof.core k s = .next t

/-- The bytes a world brings before the samples of its steps 1 to `k`, in arrival order. -/
def arrivedBy (world : Nat → EnvStep) : Nat → List Byte
  | 0 => []
  | k + 1 => arrivedBy world k ++ (world (k + 1)).arrivals

/-- The milliseconds a world lets pass before the sample of its step `k`, as the 32-bit clock counts them. -/
def msBy (world : Nat → EnvStep) : Nat → Word
  | 0 => 0#32
  | k + 1 => msBy world k + (world (k + 1)).ms

/-- The elapsed time from the sample of step `i` to that of step `k` (rule R147). -/
def waited (world : Nat → EnvStep) (i k : Nat) : Word := elapsed (msBy world k) (msBy world i)

/-- The next state of an outcome, if it is one. -/
def nextOf (o : Host.Outcome State Fault Refusal) : Option State :=
  match o with
  | .next s => some s
  | .fault _ => none
  | .refused _ => none

/-- How many of `tx_valid`, `rx_pop` and `cfg_valid` are 1 (rule R42). -/
def transportEvents (o : Outputs) : Nat := o.tx.isSome.toNat + o.rxPop.toNat + o.cfg.isSome.toNat

/-- A state with the verbosity flag and the diagnostic port taken out of account (rule R181). -/
def hideVerbosity (s : State) : State := { s with verbose := false, out := { s.out with diag := none } }

/-- `s` with other values on the command port (rule R41). -/
def withCommand (s : State) (valid : Bool) (w : Word) : State :=
  { s with env := { s.env with inp := { s.env.inp with cmdValid := valid, cmdWord := w } } }

/-- `s` with another `csr_sel` (rule R33). -/
def withCsrSel (s : State) (n : Idx) : State :=
  { s with env := { s.env with inp := { s.env.inp with csrSel := n } } }

/-- The outcome a received packet gives a host transaction (rules R143 to R145 and R206). -/
def packetOutcome (c : Config) (req : Byte) (p : Packet) : Result :=
  match decodePacket c p with
  | none => .plain .txnChecksum
  | some r =>
    if r.ce then .plain .txnCe
    else { kind := .txnOk, status := r.status, reg := r.reg, data := r.data, echoMm := r.reg != req }

/-- The last-response cache after a received packet: a valid response with CE = 0 replaces it, whatever its status
(rules R28 and R145). -/
def cacheAfter (c : Config) (l : Last) (p : Packet) : Last :=
  match decodePacket c p with
  | none => l
  | some r => if r.ce then l else { valid := true, status := r.status, reg := r.reg, data := r.data }

/-- `t` is where a host transaction of register `req` ends that began in `s` and received `p`; the bytes `left` come
next in the receive queue (rules R145, R146, R150, R151). -/
structure EndsWithPacket (s t : State) (req : Byte) (p : Packet) (left : List Byte) : Prop where
  idle : t.state = .idle
  done : t.out.done = true
  result : t.result = packetOutcome s.cfg req p
  rxbuf : t.rxbuf = p
  last : t.last = cacheAfter s.cfg s.last p
  queue : left <+: t.line.rxq
  verbose : t.verbose = s.verbose
  baud : t.baud = s.baud
  baudOk : t.baudOk = s.baudOk
  accIdx : t.accIdx = s.accIdx

end Sys2Proof.Machine
end

