-- ==== Sys2Proof/Certificates/Slice0/Obligations.lean ====
section
/-! DEFINITION. The statements for the provers, from the spec's numbered rules. A statement about what an instruction
or a step does gives the whole next state, so it says what changes and that nothing else does. There is no memory in
this hardware (rule R50); the receive queue and every register stand in the state the equation gives. -/

open Sys2Proof Sys2Proof.Machine

/-! ## Checksum and framing -/

/-- Rule R100: the fold, which reads the lower nibble of `b0` only. With it the form rule R101 derives from it: the
seven nibbles, and which one checksum bit each covered bit affects. -/
def Obligations.Bip4FoldsTheCoveredBits : Prop :=
  (∀ b0 b1 b2 b3 : Byte,
    let x8 : Byte := (b0.extractLsb' 0 4).setWidth 8 ^^^ b1 ^^^ b2 ^^^ b3
    bip4 b0 b1 b2 b3 = x8.extractLsb' 4 4 ^^^ x8.extractLsb' 0 4
    ∧ bip4 b0 b1 b2 b3
        = lowNibble b0 ^^^ highNibble b1 ^^^ lowNibble b1 ^^^ highNibble b2 ^^^ lowNibble b2 ^^^ highNibble b3
          ^^^ lowNibble b3)
  ∧ ∀ (w : Word) (k : Nat), k < 28 →
      packetChecksum (packetOfWord (w ^^^ 1#32 <<< k)) = packetChecksum (packetOfWord w) ^^^ 1#4 <<< (k % 4)

/-- Rule R102: SEAL stores the checksum in `b0[7:4]`, keeps the rest, discards the incoming `b0[7:4]`, and does nothing
a second time (the last two are consequences the rule itself draws). -/
def Obligations.SealStoresChecksumAndIsIdempotent : Prop :=
  ∀ (p : Packet) (junk : Nibble),
    sealPacket p = { b0 := bip4 p.b0 p.b1 p.b2 p.b3 ++ p.b0.extractLsb' 0 4, b1 := p.b1, b2 := p.b2, b3 := p.b3 }
    ∧ sealPacket { p with b0 := junk ++ p.b0.extractLsb' 0 4 } = sealPacket p
    ∧ sealPacket (sealPacket p) = sealPacket p

/-- Rules R103 and R105: ENCODE is SEAL of the header that holds W alone, for either value of the marker input, and the
engine passes 1. That `b0[2:0]` starts at 0 and that the marker is this input are the spec's decisions D6 and D7. -/
def Obligations.EncodeIsSealForEitherMarker : Prop :=
  ∀ (reg : Byte) (value : Half) (w lr : Bool),
    encodePacket 0#3 reg value w lr
        = sealPacket { b0 := (BitVec.ofBool w).setWidth 8 <<< 3, b1 := reg, b2 := value.extractLsb' 8 8,
                       b3 := value.extractLsb' 0 8 }
    ∧ requestPacket Config.default reg value w = encodePacket 0#3 reg value w true

/-- Rule R53: the value is big-endian, byte 2 its high and byte 3 its low half. With it the other fields of the command
packet (rule R71; that `b0[2:0]` is 0 is the spec's decision D6). -/
def Obligations.CommandPacketFields : Prop :=
  ∀ (reg : Byte) (value : Half) (w : Bool),
    let p := requestPacket Config.default reg value w
    let x := wordOfPacket p
    x.extractLsb' 28 4 = bip4 p.b0 p.b1 p.b2 p.b3 ∧ x.getLsbD 27 = w ∧ x.extractLsb' 24 3 = 0#3
    ∧ x.extractLsb' 16 8 = reg ∧ x.extractLsb' 8 8 = value.extractLsb' 8 8 ∧ x.extractLsb' 0 8 = value.extractLsb' 0 8
    ∧ p.b0 = x.extractLsb' 24 8 ∧ p.b1 = x.extractLsb' 16 8 ∧ p.b2 = x.extractLsb' 8 8 ∧ p.b3 = x.extractLsb' 0 8

/-- Rules R54 and R108: a packet whose checksum nibble is wrong gives no field, and DATA is `b2 << 8 | b3`. With them
the whole of DECODE (rule R107; the positions of CE, RSV and STATUS are the spec's decision D8). -/
def Obligations.DecodeChecksThenParses : Prop :=
  ∀ p : Packet,
    (p.b0.extractLsb' 4 4 ≠ bip4 p.b0 p.b1 p.b2 p.b3 → decodePacket Config.default p = none)
    ∧ (p.b0.extractLsb' 4 4 = bip4 p.b0 p.b1 p.b2 p.b3 →
        decodePacket Config.default p
          = some { ce := p.b0.getLsbD 3, rsv := p.b0.getLsbD 2, status := p.b0.extractLsb' 0 2, reg := p.b1,
                   data := p.b2 ++ p.b3 })

/-- Rule R109: DECODE of SEAL succeeds and gives back the lower nibble and the three bytes. -/
def Obligations.SealThenDecodeRoundTrips : Prop :=
  ∀ p : Packet, ∃ r, decodePacket Config.default (sealPacket p) = some r
    ∧ BitVec.ofBool r.ce ++ BitVec.ofBool r.rsv ++ r.status = p.b0.extractLsb' 0 4 ∧ r.reg = p.b1
    ∧ r.data = p.b2 ++ p.b3

/-- Rule R110, the criterion and consequence (a): an error on a valid packet is detected exactly when its checksum part
differs from the fold of the rest, so every single-bit error is. -/
def Obligations.ErrorDetectedExactlyWhenFoldDiffers : Prop :=
  ∀ (c : Config) (p : Word), (decodePacket c (packetOfWord p)).isSome = true →
    (∀ e : Word, decodePacket c (packetOfWord (p ^^^ e)) = none ↔
      e.extractLsb' 28 4 ≠ e.extractLsb' 24 4 ^^^ e.extractLsb' 20 4 ^^^ e.extractLsb' 16 4 ^^^ e.extractLsb' 12 4
        ^^^ e.extractLsb' 8 4 ^^^ e.extractLsb' 4 4 ^^^ e.extractLsb' 0 4)
    ∧ ∀ k, k < 32 → decodePacket c (packetOfWord (p ^^^ 1#32 <<< k)) = none

/-- Rule R110, consequences (b) and (e): how many non-zero error patterns go undetected, in all, with the checksum
nibble unchanged, and among the two-bit patterns. An undetected pattern is one that keeps the all-zero packet valid.
-/
def Obligations.UndetectedErrorCounts : Prop :=
  let missed := fun e : Word => e ≠ 0#32 ∧ (decodePacket Config.default (packetOfWord e)).isSome = true
  Nat.card { e : Word // missed e } = 2 ^ 28 - 1
  ∧ Nat.card { e : Word // missed e ∧ e.extractLsb' 28 4 = 0#4 } = 2 ^ 24 - 1
  ∧ Nat.card { ij : Fin 32 × Fin 32 // ij.1 < ij.2 ∧ missed (1#32 <<< ij.1.val ^^^ 1#32 <<< ij.2.val) } = 112
  ∧ Nat.card { ij : Fin 32 × Fin 32 // ij.1 < ij.2 } = 496

/-- Rule R81 (positions: decision D8): a received packet is one kind, found by its mask and pattern, RSP.BAD first; a
packet the block sends is the command kind of its W bit. -/
def Obligations.PacketKindByMaskAndChecksum : Prop :=
  (∀ w : Word,
    let p := packetOfWord w
    let good := w.extractLsb' 28 4 = bip4 p.b0 p.b1 p.b2 p.b3
    let k := classify Config.default p
    let rsv := w.getLsbD 26
    let reg := w.extractLsb' 16 8
    let data := w.extractLsb' 0 16
    (¬ good → k = .rspBad (w.extractLsb' 28 4) (w.extractLsb' 24 4) reg data)
    ∧ (good → w &&& 0x08000000#32 = 0x08000000#32 → k = .rspCe rsv (w.extractLsb' 24 2) reg data)
    ∧ (good → w &&& 0x0B000000#32 = 0x00000000#32 → k = .rspOk rsv reg data)
    ∧ (good → w &&& 0x0B000000#32 = 0x01000000#32 → k = .rspXe rsv reg data)
    ∧ (good → w &&& 0x0B000000#32 = 0x02000000#32 → k = .rspAea rsv reg data)
    ∧ (good → w &&& 0x0B000000#32 = 0x03000000#32 → k = .rspCp rsv reg data))
  ∧ ∀ (reg : Byte) (value : Half) (w : Bool),
      let x := wordOfPacket (requestPacket Config.default reg value w)
      x &&& 0x0F000000#32 = (if w then 0x08000000#32 else 0x00000000#32)
      ∧ decodeCommand Config.default x = .ok (if w then .cmdWr reg value else .cmdRd reg value)

/-! ## Encodings -/

/-- Rule R79 (decision D4): a host word is the command whose row it selects, with the fields of rule R74, and at most
one row matches any word. -/
def Obligations.HostWordIsItsSelectedRow : Prop :=
  ∀ w : Word,
    (w &&& 0xFB000000#32 = 0x10000000#32 ↔
      decodeHost w = .ok (.txnRd (w.getLsbD 26) (w.extractLsb' 16 8) (w.extractLsb' 0 16)))
    ∧ (w &&& 0xFB000000#32 = 0x18000000#32 ↔
      decodeHost w = .ok (.txnWr (w.getLsbD 26) (w.extractLsb' 16 8) (w.extractLsb' 0 16)))
    ∧ (w &&& 0xFFFFFFFF#32 = 0x20000000#32 ↔ decodeHost w = .ok .negotiate)
    ∧ (w &&& 0xFFFFFFFE#32 = 0x30000000#32 ↔ decodeHost w = .ok (.setverb (w.getLsbD 0)))
    ∧ [rowTxnRd, rowTxnWr, rowNegotiate, rowSetverb].Pairwise fun a b => ¬ (a.selects w = true ∧ b.selects w = true)

/-- Rule R75 (decisions D4 and D5): the OP values, W, and the must-be-zero bits, with what makes a word illegal. -/
def Obligations.HostWordByOperationField : Prop :=
  ∀ w : Word,
    let op := w.extractLsb' 28 4
    (op = 0x1#4 → w.extractLsb' 24 2 = 0#2 → w.getLsbD 27 = false →
        decodeHost w = .ok (.txnRd (w.getLsbD 26) (w.extractLsb' 16 8) (w.extractLsb' 0 16)))
    ∧ (op = 0x1#4 → w.extractLsb' 24 2 = 0#2 → w.getLsbD 27 = true →
        decodeHost w = .ok (.txnWr (w.getLsbD 26) (w.extractLsb' 16 8) (w.extractLsb' 0 16)))
    ∧ (op = 0x1#4 → w.extractLsb' 24 2 ≠ 0#2 → decodeHost w = .rejected .txnReservedBits)
    ∧ (op = 0x2#4 → w.extractLsb' 0 28 = 0#28 → decodeHost w = .ok .negotiate)
    ∧ (op = 0x2#4 → w.extractLsb' 0 28 ≠ 0#28 → decodeHost w = .rejected .negotiateBits)
    ∧ (op = 0x3#4 → w.extractLsb' 1 27 = 0#27 → decodeHost w = .ok (.setverb (w.getLsbD 0)))
    ∧ (op = 0x3#4 → w.extractLsb' 1 27 ≠ 0#27 → decodeHost w = .rejected .setverbBits)
    ∧ (op ≠ 0x1#4 → op ≠ 0x2#4 → op ≠ 0x3#4 → decodeHost w = .rejected (.unassignedOp op))

/-- Decode and encode agree, for every well-formed instruction, every operand and every response layout that fits. -/
def Obligations.DecodeOfEncodeIsTheInstruction : Prop :=
  ∀ (c : Config) (i : Instr), c.layoutWf → i.wellFormed = true → decode c i.channel (encode c i) = .ok i

/-- Every word of a place has at most one meaning there: what decodes encodes back to the word. -/
def Obligations.EncodeOfDecodeIsTheWord : Prop :=
  ∀ (c : Config) (ch : Channel) (w : Word) (i : Instr), c.layoutWf → decode c ch w = .ok i →
    encode c i = w ∧ i.channel = ch ∧ i.wellFormed = true

/-- Words written out from the spec's encodings (rules R84, R111 to R118 and 95 section 2.4) decode as they should. -/
def Obligations.WrittenOutWordsDecode : Prop :=
  decodeHost 0b00010000001100010000000000000000#32 = .ok (.txnRd false 0x31#8 0x0000#16)
  ∧ decodeHost 0b00011100001101010000000011000001#32 = .ok (.txnWr true 0x35#8 0x00C1#16)
  ∧ decodeHost 0b00100000000000000000000000000000#32 = .ok .negotiate
  ∧ decodeHost 0b00110000000000000000000000000001#32 = .ok (.setverb true)
  ∧ decodeCommand Config.default 0b01110000010000110000000000000000#32 = .ok (.cmdRd 0x43#8 0x0000#16)
  ∧ decodeCommand Config.default 0b10111000001100010000000100000000#32 = .ok (.cmdWr 0x31#8 0x0100#16)
  ∧ decode Config.default .response 0b00010000000000010000000000010000#32 = .ok (.rspBad 0x1#4 0x0#4 0x01#8 0x0010#16)
  ∧ decode Config.default .response 0b10001000000000000000000000000000#32 = .ok (.rspCe false 0#2 0x00#8 0x0000#16)
  ∧ decode Config.default .response 0b00010000000000000000000000010000#32 = .ok (.rspOk false 0x00#8 0x0010#16)
  ∧ decode Config.default .response 0b00000001001100100000000000000000#32 = .ok (.rspXe false 0x32#8 0x0000#16)
  ∧ decode Config.default .response 0b01000010000000110000000000000101#32 = .ok (.rspAea false 0x03#8 0x0005#16)
  ∧ decode Config.default .response 0b00110011000000000000000000000000#32 = .ok (.rspCp false 0x00#8 0x0000#16)

/-- Rule R77: the operands of a host word are copied into the packet, not transformed, and SETVERB's operand is bit 0.
-/
def Obligations.OperandsAreCopiedIntoThePacket : Prop :=
  ∀ (w : Word) (tc : Bool) (reg : Byte) (value : Half),
    (decodeHost w = .ok (.txnRd tc reg value) →
      let p := requestPacket Config.default reg value false
      p.b1 = w.extractLsb' 16 8 ∧ p.b2 = w.extractLsb' 8 8 ∧ p.b3 = w.extractLsb' 0 8 ∧ p.b0.getLsbD 3 = w.getLsbD 27)
    ∧ (decodeHost w = .ok (.txnWr tc reg value) →
      let p := requestPacket Config.default reg value true
      p.b1 = w.extractLsb' 16 8 ∧ p.b2 = w.extractLsb' 8 8 ∧ p.b3 = w.extractLsb' 0 8 ∧ p.b0.getLsbD 3 = w.getLsbD 27)
    ∧ ∀ v, decodeHost w = .ok (.setverb v) → v = w.getLsbD 0

/-- Rule R84 (decision D29): the word of each assembler form is the command it names, and an operand outside its range
is an error. -/
def Obligations.AssembledWordsAreTheirCommands : Prop :=
  (∀ reg value : Nat, reg < 256 → value < 65536 →
    ((assemble (.txnRd reg value)).map decodeHost
        = some (.ok (.txnRd false (BitVec.ofNat 8 reg) (BitVec.ofNat 16 value))))
    ∧ ((assemble (.txnRdMon reg value)).map decodeHost
        = some (.ok (.txnRd true (BitVec.ofNat 8 reg) (BitVec.ofNat 16 value))))
    ∧ ((assemble (.txnWr reg value)).map decodeHost
        = some (.ok (.txnWr false (BitVec.ofNat 8 reg) (BitVec.ofNat 16 value))))
    ∧ ((assemble (.txnWrMon reg value)).map decodeHost
        = some (.ok (.txnWr true (BitVec.ofNat 8 reg) (BitVec.ofNat 16 value)))))
  ∧ (∀ reg value : Nat, 256 ≤ reg ∨ 65536 ≤ value →
    assemble (.txnRd reg value) = none ∧ assemble (.txnRdMon reg value) = none ∧ assemble (.txnWr reg value) = none
    ∧ assemble (.txnWrMon reg value) = none)
  ∧ (assemble .negotiate).map decodeHost = some (.ok .negotiate)
  ∧ (assemble (.setverb 0)).map decodeHost = some (.ok (.setverb false))
  ∧ (assemble (.setverb 1)).map decodeHost = some (.ok (.setverb true))
  ∧ ∀ v : Nat, 2 ≤ v → assemble (.setverb v) = none

/-- Rule R85 (decision D29): what the pseudo-instructions expand to. -/
def Obligations.PseudoInstructionsExpand : Prop :=
  (∀ c : Config, expandPseudo c .probe = some [.issue (0x10000000#32 ||| c.nopReg.setWidth 32 <<< 16)]
    ∧ expandPseudo c .geterr = expandPseudo c .probe)
  ∧ (∀ s : State, geterrCode s = s.result.data.extractLsb' 0 4)
  ∧ (∀ (c : Config) (rh rl x : Nat), rh < 256 → rl < 256 → x < 2 ^ 32 →
    expandPseudo c (.wr32 rh rl x)
      = some [.issue (txnWord true false (BitVec.ofNat 8 rh) ((BitVec.ofNat 32 x).extractLsb' 16 16)),
              .issue (txnWord true false (BitVec.ofNat 8 rl) ((BitVec.ofNat 32 x).extractLsb' 0 16))])
  ∧ ∀ (c : Config) (v : Nat), v < 2 →
    expandPseudo c (.beginSession v)
      = some [.assertReset, .waitReady, .issue (0x30000000#32 ||| BitVec.ofNat 32 v), .issue 0x20000000#32]

/-! ## The instructions: each completes, with this next state -/

/-- Rule R130 (decisions D3 and D40): TXN.RD and TXN.WR latch their operands and go to TX; no outcome is written and
no port moves. -/
def Obligations.TxnCommandsAreLatched : Prop :=
  ∀ (tc : Bool) (reg : Byte) (value : Half) (s : State),
    exec (.txnRd tc reg value) s
      = .next { s with reqReg := reg, reqVal := value, reqW := false, reqTc := tc, origin := .host, state := .tx }
    ∧ exec (.txnWr tc reg value) s
      = .next { s with reqReg := reg, reqVal := value, reqW := true, reqTc := tc, origin := .host, state := .tx }

/-- Rule R171 (decision D18): NEGOTIATE is accepted. -/
def Obligations.NegotiateStartsAtIndexZero : Prop :=
  ∀ s : State, exec .negotiate s = .next { s with baudOk := false, accIdx := 7#3, negIdx := 0#3, state := .negCfg }

/-- Rule R180 (decisions D16, D21, D40): SETVERB sets the flag and completes at once with CFG_DONE. -/
def Obligations.SetverbSetsFlagAndCompletes : Prop :=
  ∀ (v : Bool) (s : State),
    exec (.setverb v) s
      = .next { s with
          verbose := v
          result := { kind := .cfgDone, status := 0#2, reg := 0#8, data := 0#16, echoMm := false }
          state := .idle
          out := { s.out with done := true } }

/-- Rule R140 (decisions D11 and D12): CMD.RD and CMD.WR are sent, the deadline starts at this step's sample, and the
engine waits in RX. -/
def Obligations.RequestPacketsAreSent : Prop :=
  ∀ (reg : Byte) (value : Half) (s : State),
    exec (.cmdRd reg value) s
      = .next { s with
          t0 := nowMs s
          rxCnt := 0#3
          state := .rx
          out := { s.out with tx := some (wordOfPacket (encodePacket s.cfg.cmdLow reg value false true)) } }
    ∧ exec (.cmdWr reg value) s
      = .next { s with
          t0 := nowMs s
          rxCnt := 0#3
          state := .rx
          out := { s.out with tx := some (wordOfPacket (encodePacket s.cfg.cmdLow reg value true true)) } }

/-- Rules R143, R144, R146 and R175 (decisions D8, D17, D18): RSP.BAD and RSP.CE end a host transaction with their
kind and nothing recorded; they fail the candidate of a probe, after which the next one is tried, or the fallback
after the last. -/
def Obligations.FailedResponseRecordsNothing : Prop :=
  ∀ (chk low : Nibble) (rsv : Bool) (status : Status) (reg : Byte) (data : Half) (s : State),
    let ended := fun k : Kind =>
      { s with
        result := { kind := k, status := 0#2, reg := 0#8, data := 0#16, echoMm := false }
        state := .idle
        out := { s.out with done := true } }
    let movedOn :=
      { s with
        negIdx := if s.negIdx.toNat + 1 < s.cfg.nBaud then s.negIdx + 1#3 else s.negIdx
        state := if s.negIdx.toNat + 1 < s.cfg.nBaud then .negCfg else .negFallback }
    exec (.rspBad chk low reg data) s = .next (if s.origin = .host then ended .txnChecksum else movedOn)
    ∧ exec (.rspCe rsv status reg data) s = .next (if s.origin = .host then ended .txnCe else movedOn)

/-- Rule R145 (decisions D14 and D15) for a host transaction: a valid response with CE = 0 is cached and reported for
every status, and the echo mismatch is recorded and, with the verbosity flag, signalled (rule R146 for HOST). -/
def Obligations.GoodResponseEndsHostTransaction : Prop :=
  ∀ (rsv : Bool) (reg : Byte) (data : Half) (s : State), s.origin = .host →
    let after := fun st : Status =>
      { s with
        last := { valid := true, status := st, reg := reg, data := data }
        result := { kind := .txnOk, status := st, reg := reg, data := data, echoMm := reg != s.reqReg }
        state := .idle
        out := { s.out with
          done := true
          diag := if reg ≠ s.reqReg ∧ s.verbose = true then some (1#4, s.reqReg ++ reg) else s.out.diag } }
    exec (.rspOk rsv reg data) s = .next (after 0#2) ∧ exec (.rspXe rsv reg data) s = .next (after 1#2)
    ∧ exec (.rspAea rsv reg data) s = .next (after 2#2) ∧ exec (.rspCp rsv reg data) s = .next (after 3#2)

/-- Rules R145, R174 and R175 (decisions D14, D15, D18) for a probe: every valid response with CE = 0 is cached; RSP.OK
accepts the candidate, whatever the echo, and ends the command with NEG_OK; status 1, 2 or 3 fails the candidate. -/
def Obligations.GoodResponseDecidesTheCandidate : Prop :=
  ∀ (rsv : Bool) (reg : Byte) (data : Half) (s : State), s.origin = .neg →
    let diag := if reg ≠ s.reqReg ∧ s.verbose = true then some (1#4, s.reqReg ++ reg) else s.out.diag
    let movedOn := fun st : Status =>
      { s with
        last := { valid := true, status := st, reg := reg, data := data }
        negIdx := if s.negIdx.toNat + 1 < s.cfg.nBaud then s.negIdx + 1#3 else s.negIdx
        state := if s.negIdx.toNat + 1 < s.cfg.nBaud then .negCfg else .negFallback
        out := { s.out with diag := diag } }
    exec (.rspOk rsv reg data) s
      = .next { s with
          last := { valid := true, status := 0#2, reg := reg, data := data }
          baudOk := true
          accIdx := s.negIdx
          result := { kind := .negOk, status := 0#2, reg := reg, data := data, echoMm := reg != s.reqReg }
          state := .idle
          out := { s.out with done := true, diag := diag } }
    ∧ exec (.rspXe rsv reg data) s = .next (movedOn 1#2) ∧ exec (.rspAea rsv reg data) s = .next (movedOn 2#2)
    ∧ exec (.rspCp rsv reg data) s = .next (movedOn 3#2)

/-- Rules R174 and R175: what the negotiation sequencer does with the outcome of its probe, whatever produced it: TXN_OK
with status 0 accepts the candidate, anything else goes to the next candidate in list order, or to the fallback. -/
def Obligations.ProbeOutcomeAcceptsOrMovesOn : Prop :=
  ∀ (o : Result) (s : State), s.origin = .neg →
    (o.kind = .txnOk ∧ o.status = 0#2 →
      complete o s = { s with
        baudOk := true
        accIdx := s.negIdx
        result := { kind := .negOk, status := o.status, reg := o.reg, data := o.data, echoMm := o.echoMm }
        state := .idle
        out := { s.out with done := true } })
    ∧ (¬ (o.kind = .txnOk ∧ o.status = 0#2) → s.negIdx.toNat + 1 < s.cfg.nBaud →
      complete o s = { s with negIdx := s.negIdx + 1#3, state := .negCfg })
    ∧ (¬ (o.kind = .txnOk ∧ o.status = 0#2) → s.cfg.nBaud ≤ s.negIdx.toNat + 1 →
      complete o s = { s with state := .negFallback })

/-! ## One step -/

/-- A step runs the decoded instruction: in IDLE the command on the port, in TX the packet of the request latch, in
CHECK the received packet. Around it the outputs start inactive and the world's next inputs come in. -/
def Obligations.StepRunsTheDecodedInstruction : Prop :=
  ∀ (s : State) (i : Instr), s.env.inp.rst = false →
    (s.state = .idle → s.env.inp.cmdValid = true → decode s.cfg .host s.env.inp.cmdWord = .ok i →
      step s = andThen advance (exec i (quiet s)))
    ∧ (s.state = .tx →
      decode s.cfg .command (wordOfPacket (encodePacket s.cfg.cmdLow s.reqReg s.reqVal s.reqW true)) = .ok i →
      step s = andThen advance (exec i (quiet s)))
    ∧ (s.state = .check → decode s.cfg .response (wordOfPacket s.rxbuf) = .ok i →
      step s = andThen advance (exec i (quiet s)))

/-- Rule R182 (decision D5): a word that matches no row of rule R79 completes as ILLEGAL, and nothing else changes. -/
def Obligations.IllegalWordCompletesAtOnce : Prop :=
  ∀ s : State, s.env.inp.rst = false → s.state = .idle → s.env.inp.cmdValid = true →
    s.env.inp.cmdWord &&& 0xFB000000#32 ≠ 0x10000000#32 → s.env.inp.cmdWord &&& 0xFB000000#32 ≠ 0x18000000#32 →
    s.env.inp.cmdWord &&& 0xFFFFFFFF#32 ≠ 0x20000000#32 → s.env.inp.cmdWord &&& 0xFFFFFFFE#32 ≠ 0x30000000#32 →
    step s = .next (advance { s with
      result := { kind := .illegal, status := 0#2, reg := 0#8, data := 0#16, echoMm := false }
      out := { done := true, tx := none, rxPop := false, cfg := none, diag := none } })

/-- Rule R131 (with rule R41): outside IDLE what stands on the command port makes no difference: nothing is accepted,
queued or reported. In a step with `rst = 1` it makes none either (rules R207 and R230, decision D23), and `cmd_ready`
still shows the state before the reset there, which is the model's choice (log entry 8). -/
def Obligations.CommandPortIgnoredOutsideIdle : Prop :=
  ∀ (s : State) (valid : Bool) (w : Word),
    (s.state ≠ .idle ∨ s.env.inp.rst = true → step (withCommand s valid w) = step s)
    ∧ cmdReady s = decide (s.state = .idle)
    ∧ (s.state = .idle → step (withCommand s false w) = step (withCommand s false 0#32))

/-- Rule R33 (decision D22): reading a CSR changes no state, in any step. -/
def Obligations.CsrReadChangesNothing : Prop :=
  ∀ (s : State) (n : Idx), step (withCsrSel s n) = step s ∧ csrRdata (withCsrSel s n) = csrRead s n

/-- The steps that wait change nothing but the outputs, which are inactive: IDLE without a command (rule R251), RX
before the deadline with no byte (rules R141 and R244), NEG_SETTLE before `T_SETTLE` (rule R173). -/
def Obligations.WaitingStepsChangeNothing : Prop :=
  ∀ s : State, s.env.inp.rst = false →
    (s.state = .idle ∧ s.env.inp.cmdValid = false
      ∨ s.state = .rx ∧ s.line.rxq = [] ∧ nowMs s - s.t0 < (if s.reqTc then s.cfg.tMon else s.cfg.tGen)
      ∨ s.state = .negSettle ∧ nowMs s - s.tCfg < s.cfg.tSettle) →
    step s = .next (advance { s with out := { done := false, tx := none, rxPop := false, cfg := none, diag := none } })

/-- Rules R230 and R45 (decision D23): a step with `rst = 1` gives every field of the block the value of rule R45,
whatever the state, with no port active; the transport and the world stay (rule R234), and the parameters are no
state. -/
def Obligations.ResetStepLoadsResetValues : Prop :=
  ∀ s : State, s.env.inp.rst = true →
    step s = .next (advance
      { cfg := s.cfg, state := .rst, reqReg := 0#8, reqVal := 0#16, reqW := false, reqTc := false, origin := .host,
        t0 := 0#32, tCfg := 0#32, rxbuf := { b0 := 0#8, b1 := 0#8, b2 := 0#8, b3 := 0#8 }, rxCnt := 0#3,
        result := { kind := .none, status := 0#2, reg := 0#8, data := 0#16, echoMm := false },
        last := { valid := false, status := 0#2, reg := 0#8, data := 0#16 }, verbose := false,
        baud := s.cfg.baudFallback, baudOk := false, accIdx := 7#3, negIdx := 0#3,
        out := { done := false, tx := none, rxPop := false, cfg := none, diag := none }, line := s.line, env := s.env })

/-- What the CSRs and `cmd_ready` show right after reset and after the RST step (rules R34 to R39 and R231, 95 section
2.8), for the default parameters. -/
def Obligations.CsrValuesAfterReset : Prop :=
  (csrRead State.reset 0#3 = 0x00000000#32 ∧ csrRead State.reset 1#3 = 0x07002580#32
    ∧ csrRead State.reset 2#3 = 0x00000000#32 ∧ csrRead State.reset 3#3 = 0x00000000#32
    ∧ csrRead State.reset 4#3 = 0x00000000#32 ∧ cmdReady State.reset = false)
  ∧ ∃ t, step State.reset = .next t ∧ csrRead t 0#3 = 0x00000000#32 ∧ csrRead t 1#3 = 0x07002580#32
    ∧ csrRead t 2#3 = 0x00000000#32 ∧ csrRead t 3#3 = 0x00000000#32 ∧ csrRead t 4#3 = 0x00000001#32
    ∧ cmdReady t = true ∧ t.out.cfg = some 9600#24

/-- Rule R231 (decision D23): the RST step configures the reset rate and makes the engine ready. -/
def Obligations.RstStepConfiguresResetRate : Prop :=
  ∀ s : State, s.env.inp.rst = false → s.state = .rst →
    step s = .next (advance { s with
      baud := s.cfg.baudReset
      state := .idle
      out := { done := false, tx := none, rxPop := false, cfg := some s.cfg.baudReset, diag := none }
      line := { s.line with rate := s.cfg.baudReset } })

/-- Rule R141 (decision D12), first case: before the deadline a waiting byte is popped into its place in the buffer,
one a step, and the fourth leads to CHECK. -/
def Obligations.RxStepTakesOneByte : Prop :=
  ∀ (s : State) (b : Byte) (rest : List Byte), s.env.inp.rst = false → s.state = .rx → s.line.rxq = b :: rest →
    nowMs s - s.t0 < (if s.reqTc then s.cfg.tMon else s.cfg.tGen) → s.rxCnt.toNat ≤ 3 →
    step s = .next (advance { s with
      rxbuf := {
        b0 := if s.rxCnt = 0#3 then b else s.rxbuf.b0
        b1 := if s.rxCnt = 1#3 then b else s.rxbuf.b1
        b2 := if s.rxCnt = 2#3 then b else s.rxbuf.b2
        b3 := if s.rxCnt = 3#3 then b else s.rxbuf.b3 }
      rxCnt := s.rxCnt + 1#3
      state := if s.rxCnt = 3#3 then .check else .rx
      out := { done := false, tx := none, rxPop := true, cfg := none, diag := none }
      line := { s.line with rxq := rest } })

/-- Rules R142 and R207 (decisions D11 and D17): at the deadline the transaction times out, whether or not a byte
waits (with the default `DEADLINE_INCLUSIVE`); a host transaction ends, a probe fails its candidate (rules R146 and
R175). -/
def Obligations.RxStepTimesOutAtDeadline : Prop :=
  ∀ s : State, s.env.inp.rst = false → s.state = .rx → s.cfg.deadlineInclusive = false →
    (if s.reqTc then s.cfg.tMon else s.cfg.tGen) ≤ nowMs s - s.t0 →
    (s.origin = .host →
      step s = .next (advance { s with
        result := { kind := .txnTimeout, status := 0#2, reg := 0#8, data := 0#16, echoMm := false }
        state := .idle
        out := { done := true, tx := none, rxPop := false, cfg := none, diag := none } }))
    ∧ (s.origin = .neg →
      step s = .next (advance { s with
        negIdx := if s.negIdx.toNat + 1 < s.cfg.nBaud then s.negIdx + 1#3 else s.negIdx
        state := if s.negIdx.toNat + 1 < s.cfg.nBaud then .negCfg else .negFallback
        out := { done := false, tx := none, rxPop := false, cfg := none, diag := none } }))

/-- Rules R9 and R11: a transaction uses `T_MON` exactly when its command's TC is 1, and the candidate list, tried from
index 0 on. The first is said of a whole transaction: from the accept step of a TXN word with TC = `tc` on, as long as
the engine has not come back to IDLE and there is no reset, every RX step goes on before the deadline of `tc` and times
out from it on (the boundary is the spec's decision D11). With them the default values of the other times (rules R8 and
R10). -/
def Obligations.DeadlinesAndCandidateList : Prop :=
  Config.default.tGen = 100#32 ∧ Config.default.tMon = 500#32 ∧ Config.default.tSettle = 50#32
  ∧ Config.default.baudList.map (·.toNat) = [4800, 9600, 19200, 38400, 57600, 115200] ∧ Config.default.nBaud = 6
  ∧ (∀ r ∈ Config.default.baudList, 0 < r.toNat ∧ r.toNat < 2 ^ 24)
  ∧ (∀ s : State, ∃ t, exec .negotiate s = .next t ∧ t.state = .negCfg ∧ t.negIdx = 0#3)
  ∧ ∀ (s u : State) (w tc : Bool) (reg : Byte) (value : Half) (k : Nat),
    s.cfg.deadlineInclusive = false → s.env.inp.rst = false → s.state = .idle → s.env.inp.cmdValid = true →
    s.env.inp.cmdWord = encode s.cfg (if w then .txnWr tc reg value else .txnRd tc reg value) →
    (∀ i v, 1 ≤ i → i ≤ k → RunsTo i s v → v.env.inp.rst = false ∧ v.state ≠ .idle) →
    RunsTo (k + 1) s u → u.env.inp.rst = false → u.state = .rx →
    ∃ t, step u = .next t
      ∧ (nowMs u - u.t0 < (if tc then s.cfg.tMon else s.cfg.tGen) → t.state = .rx ∨ t.state = .check)
      ∧ ((if tc then s.cfg.tMon else s.cfg.tGen) ≤ nowMs u - u.t0 →
        t.state = .idle ∧ t.out.done = true ∧ t.result.kind = .txnTimeout)

/-- Rule R147 (decision D10): elapsed time is the unsigned difference, right across a wrap of `now_ms`. Rule R213: on the
transport's clock, which counts without wrap, a timeout is never earlier than the deadline after the send step's sample,
and less than one wrap after that sample it comes exactly from the deadline on. `a` is the clock's count at the send
step. -/
def Obligations.ElapsedTimeIsModular : Prop :=
  (∀ now since : Word, (elapsed now since).toNat = (now.toNat + 2 ^ 32 - since.toNat) % 2 ^ 32)
  ∧ (∀ (since d : Word), elapsed (since + d) since = d)
  ∧ ∀ (s t : State) (a : Nat), step s = .next t → s.env.inp.rst = false → s.state = .rx →
      s.cfg.deadlineInclusive = false → a ≤ s.line.time → s.t0 = BitVec.ofNat 32 a →
      (¬ (t.state = .rx ∨ t.state = .check) → (if s.reqTc then s.cfg.tMon else s.cfg.tGen).toNat ≤ s.line.time - a)
      ∧ (s.line.time - a < 2 ^ 32 →
        (t.state = .rx ∨ t.state = .check ↔ s.line.time - a < (if s.reqTc then s.cfg.tMon else s.cfg.tGen).toNat))

/-- Rule R172: a NEG_CFG step configures the candidate and starts its settling wait. -/
def Obligations.NegCfgConfiguresCandidate : Prop :=
  ∀ (s : State) (b : Rate), s.env.inp.rst = false → s.state = .negCfg → s.cfg.baudList[s.negIdx.toNat]? = some b →
    step s = .next (advance { s with
      baud := b
      tCfg := nowMs s
      state := .negSettle
      out := { done := false, tx := none, rxPop := false, cfg := some b, diag := none }
      line := { s.line with rate := b } })

/-- Rules R173 (the end of the wait, decision D18) and R176 (decision D17): the settled candidate gets the NOP probe
with the general deadline; the fallback step leaves the transport at `BAUD_FALLBACK` and reports NEG_FAIL. -/
def Obligations.SettledProbeAndFallback : Prop :=
  ∀ s : State, s.env.inp.rst = false →
    (s.state = .negSettle → s.cfg.tSettle ≤ nowMs s - s.tCfg →
      step s = .next (advance { s with
        reqReg := s.cfg.nopReg
        reqVal := 0#16
        reqW := false
        reqTc := false
        origin := .neg
        state := .tx
        out := { done := false, tx := none, rxPop := false, cfg := none, diag := none } }))
    ∧ (s.state = .negFallback →
      step s = .next (advance { s with
        baud := s.cfg.baudFallback
        baudOk := false
        accIdx := 7#3
        result := { kind := .negFail, status := 0#2, reg := 0#8, data := 0#16, echoMm := false }
        state := .idle
        out := { done := true, tx := none, rxPop := false, cfg := some s.cfg.baudFallback, diag := none }
        line := { s.line with rate := s.cfg.baudFallback } }))

/-- Rule R247: four zero bytes answer a probe, whatever the rate, and with `NOP_REG = 0x00` even the echo matches. -/
def Obligations.AllZeroLinePassesTheProbe : Prop :=
  ∀ s : State, s.env.inp.rst = false → s.state = .check → s.origin = .neg → s.cfg.layoutWf →
    s.rxbuf = { b0 := 0#8, b1 := 0#8, b2 := 0#8, b3 := 0#8 } →
    ∃ t, step s = .next t ∧ t.state = .idle ∧ t.baudOk = true ∧ t.accIdx = s.negIdx ∧ t.result.kind = .negOk
      ∧ t.result.data = 0#16 ∧ (s.reqReg = 0x00#8 → t.result.echoMm = false)

/-- Rules R113 and R115 to R118: what the CHECK step of a host transaction makes of a packet, at the header positions of
the spec's decision D8: a wrong checksum is TXN_CHECKSUM and no field is used, all other outcome fields being 0 (decision
D17); a valid packet with CE = 0 is TXN_OK with its status, its data passed through, and no further transaction. That it is
cached is decision D15, the echo mismatch and its diagnostic are decision D14 (rule R145). A packet with CE = 1 is
`FailedResponseRecordsNothing`. -/
def Obligations.CheckStepReportsThePacketKind : Prop :=
  ∀ s : State, s.env.inp.rst = false → s.state = .check → s.origin = .host → s.cfg.ceBit = 27 → s.cfg.statusLsb = 24 →
    (s.rxbuf.b0.extractLsb' 4 4 ≠ bip4 s.rxbuf.b0 s.rxbuf.b1 s.rxbuf.b2 s.rxbuf.b3 →
      step s = .next (advance { s with
        result := { kind := .txnChecksum, status := 0#2, reg := 0#8, data := 0#16, echoMm := false }
        state := .idle
        out := { done := true, tx := none, rxPop := false, cfg := none, diag := none } }))
    ∧ (s.rxbuf.b0.extractLsb' 4 4 = bip4 s.rxbuf.b0 s.rxbuf.b1 s.rxbuf.b2 s.rxbuf.b3 → s.rxbuf.b0.getLsbD 3 = false →
      ∀ st : Status, s.rxbuf.b0.extractLsb' 0 2 = st →
      step s = .next (advance { s with
        last := { valid := true, status := st, reg := s.rxbuf.b1, data := s.rxbuf.b2 ++ s.rxbuf.b3 }
        result := {
          kind := .txnOk
          status := st
          reg := s.rxbuf.b1
          data := s.rxbuf.b2 ++ s.rxbuf.b3
          echoMm := s.rxbuf.b1 != s.reqReg }
        state := .idle
        out := {
          done := true
          tx := none
          rxPop := false
          cfg := none
          diag := if s.rxbuf.b1 ≠ s.reqReg ∧ s.verbose = true then some (1#4, s.reqReg ++ s.rxbuf.b1) else none } }))

/-! ## Registers and ports, over every step -/

/-- Rules R34 to R39 (decisions D15, D16, D22, D31, D36): every CSR field by field, with the codes of the engine
states (rule R22), of the outcome kinds (rule R200) and of the origin (rule R24) that stand in them. -/
def Obligations.CsrFieldLayout : Prop :=
  ∀ s : State,
    ((csrRead s 0#3).getLsbD 0 = s.verbose ∧ (csrRead s 0#3).extractLsb' 1 31 = 0#31)
    ∧ ((csrRead s 1#3).getLsbD 31 = s.baudOk ∧ (csrRead s 1#3).extractLsb' 27 4 = 0#4
      ∧ (csrRead s 1#3).extractLsb' 24 3 = s.accIdx ∧ (csrRead s 1#3).extractLsb' 0 24 = s.baud)
    ∧ ((csrRead s 2#3).getLsbD 31 = s.last.valid ∧ (csrRead s 2#3).extractLsb' 26 5 = 0#5
      ∧ (csrRead s 2#3).extractLsb' 24 2 = s.last.status ∧ (csrRead s 2#3).extractLsb' 16 8 = s.last.reg
      ∧ (csrRead s 2#3).extractLsb' 0 16 = s.last.data)
    ∧ ((csrRead s 3#3).extractLsb' 28 4 = kindCode s.result.kind ∧ (csrRead s 3#3).getLsbD 27 = s.result.echoMm
      ∧ (csrRead s 3#3).getLsbD 26 = false ∧ (csrRead s 3#3).extractLsb' 24 2 = s.result.status
      ∧ (csrRead s 3#3).extractLsb' 16 8 = s.result.reg ∧ (csrRead s 3#3).extractLsb' 0 16 = s.result.data)
    ∧ ((csrRead s 4#3).extractLsb' 0 4 = stateCode s.state ∧ (csrRead s 4#3).extractLsb' 4 3 = s.rxCnt
      ∧ (csrRead s 4#3).getLsbD 7 = false ∧ (csrRead s 4#3).extractLsb' 8 3 = s.negIdx
      ∧ (csrRead s 4#3).getLsbD 11 = false ∧ (csrRead s 4#3).getLsbD 12 = originBit s.origin
      ∧ (csrRead s 4#3).extractLsb' 13 19 = 0#19)
    ∧ csrRead s 5#3 = 0#32 ∧ csrRead s 6#3 = 0#32 ∧ csrRead s 7#3 = 0#32
    ∧ [EngState.rst, .idle, .tx, .rx, .check, .negCfg, .negSettle, .negFallback].map stateCode
        = [0#4, 1#4, 2#4, 3#4, 4#4, 5#4, 6#4, 7#4]
    ∧ [Kind.none, .txnOk, .txnTimeout, .txnChecksum, .txnCe, .negOk, .negFail, .cfgDone, .illegal].map kindCode
        = [0#4, 1#4, 2#4, 3#4, 4#4, 5#4, 6#4, 7#4, 8#4]
    ∧ originBit .host = false ∧ originBit .neg = true

/-- Rule R42's rule on the transport ports (decision D32): at most one of `tx_valid`, `rx_pop` and `cfg_valid` is 1 in
any step. -/
def Obligations.AtMostOneTransportEvent : Prop :=
  ∀ s t : State, step s = .next t → transportEvents t.out ≤ 1

/-- Rules R27 and R41 (decision D3): outside reset, a step without `done` leaves the outcome alone, and a step with
`done` records a kind, returns to IDLE, and comes from a state in which a command can complete. -/
def Obligations.DoneExactlyWhenOutcomeIsWritten : Prop :=
  ∀ s t : State, step s = .next t → s.env.inp.rst = false →
    (t.out.done = false → t.result = s.result)
    ∧ (t.out.done = true → t.state = .idle ∧ t.result.kind ≠ .none
        ∧ (s.state = .idle ∨ s.state = .rx ∨ s.state = .check ∨ s.state = .negFallback))
    ∧ (s.state ≠ .idle → t.state = .idle → s.state ≠ .rst → t.out.done = true)

/-- Rule R181 (decision D21): the verbosity flag changes nothing but the diagnostic port. States that differ in the flag
and that port alone differ in them alone after a step, so runs from them do too; with the flag 0 no diagnostic is
emitted; and no CSR but CTRL shows either. -/
def Obligations.VerbosityChangesOnlyDiagnostics : Prop :=
  (∀ s s' : State, hideVerbosity s = hideVerbosity s' →
    andThen hideVerbosity (step s) = andThen hideVerbosity (step s'))
  ∧ (∀ s t : State, step s = .next t → s.verbose = false → t.out.diag = none)
  ∧ ∀ (s : State) (n : Idx), n ≠ 0#3 → csrRead (hideVerbosity s) n = csrRead s n

/-- Rule R215 (decisions D14 and D21): a diagnostic is emitted exactly in the CHECK step of a valid response with CE =
0 whose echo differs, with the verbosity flag set, and carries code 1, the requested and the echoed register. -/
def Obligations.DiagnosticExactlyOnEchoMismatch : Prop :=
  ∀ s t : State, step s = .next t →
    ∀ (code : Nibble) (info : Half), t.out.diag = some (code, info) ↔
      s.env.inp.rst = false ∧ s.state = .check ∧ s.verbose = true ∧ code = 0x1#4
      ∧ ∃ r, decodePacket s.cfg s.rxbuf = some r ∧ r.ce = false ∧ r.reg ≠ s.reqReg ∧ info = s.reqReg ++ r.reg

/-- Rule R28: the cache is written by a successful decode in CHECK and by nothing else outside reset, is never
invalidated (rule R32), and is what CSR 2 reads (rule R36). That every valid response with CE = 0 is cached, whatever
its status and origin, is the spec's decision D15 (rule R145), and the layout of CSR 2 its decision D22. -/
def Obligations.CacheWrittenOnlyByDecode : Prop :=
  ∀ s t : State, step s = .next t → s.env.inp.rst = false →
    (∀ r, s.state = .check → decodePacket s.cfg s.rxbuf = some r → r.ce = false →
      t.last = { valid := true, status := r.status, reg := r.reg, data := r.data })
    ∧ ((s.state ≠ .check ∨ decodePacket s.cfg s.rxbuf = none ∨ (∃ r, decodePacket s.cfg s.rxbuf = some r ∧ r.ce = true)) →
      t.last = s.last)
    ∧ (s.last.valid = true → t.last.valid = true)
    ∧ csrRead t 2#3 = BitVec.ofBool t.last.valid ++ 0#5 ++ t.last.status ++ t.last.reg ++ t.last.data

/-- Rule R25: the send time is the sample of the TX step and the configure time that of the NEG_CFG step; nothing else
writes them outside reset. -/
def Obligations.TimestampsAreTheirStepsSamples : Prop :=
  ∀ s t : State, step s = .next t → s.env.inp.rst = false →
    t.t0 = (if s.state = .tx then nowMs s else s.t0)
    ∧ t.tCfg = (if s.state = .negCfg then nowMs s else s.tCfg)

/-- Rule R29 (decision D21): outside reset only an accepted SETVERB word writes the verbosity flag. -/
def Obligations.VerbosityWrittenOnlyBySetverb : Prop :=
  ∀ s t : State, step s = .next t → s.env.inp.rst = false →
    t.verbose = (if s.state = .idle ∧ s.env.inp.cmdValid = true ∧ s.env.inp.cmdWord &&& 0xFFFFFFFE#32 = 0x30000000#32
      then s.env.inp.cmdWord.getLsbD 0 else s.verbose)

/-- Rule R30 (with R56 (c); decisions D31 and D32): `S.baud` and the transport's rate are those of the latest
`Configure`, and a `Configure` is the RST step's, a candidate's or the fallback's. The parameters never change. -/
def Obligations.RateFollowsConfigure : Prop :=
  ∀ s t : State, step s = .next t → t.cfg = s.cfg ∧ (s.env.inp.rst = false →
    (∀ b, t.out.cfg = some b → t.baud = b ∧ t.line.rate = b
      ∧ (s.state = .rst ∧ b = s.cfg.baudReset ∨ s.state = .negCfg ∧ s.cfg.baudList[s.negIdx.toNat]? = some b
        ∨ s.state = .negFallback ∧ b = s.cfg.baudFallback))
    ∧ (t.out.cfg = none → t.baud = s.baud ∧ t.line.rate = s.line.rate))

/-- Rule R148: a packet is sent in TX steps only, is the latched request, and the engine leaves TX at once; TX is
entered only by accepting a TXN command or by starting a probe. So nothing is sent twice; and a host transaction that
waits or checks goes on doing so or ends with one of its four outcomes. -/
def Obligations.PacketSentOncePerTransaction : Prop :=
  ∀ s t : State, step s = .next t → s.env.inp.rst = false →
    (s.state = .tx → t.state = .rx
      ∧ t.out.tx = some (wordOfPacket (encodePacket s.cfg.cmdLow s.reqReg s.reqVal s.reqW true)))
    ∧ (s.state ≠ .tx → t.out.tx = none)
    ∧ (t.state = .tx → s.state = .negSettle
        ∨ (s.state = .idle ∧ s.env.inp.cmdValid = true ∧ s.env.inp.cmdWord &&& 0xF3000000#32 = 0x10000000#32))
    ∧ (s.origin = .host → s.state = .rx ∨ s.state = .check →
        ((t.state = .rx ∨ t.state = .check) ∧ t.out.done = false)
        ∨ (t.state = .idle ∧ t.out.done = true ∧ (t.result.kind = .txnOk ∨ t.result.kind = .txnTimeout
            ∨ t.result.kind = .txnChecksum ∨ t.result.kind = .txnCe)))

/-- Rules R170, R175 and R177: outside reset and the acceptance of a NEGOTIATE the candidate index moves only one up, to
the next NEG_CFG, when a probe has failed; an acceptance of a candidate leaves the sequence. -/
def Obligations.CandidatesAreTriedInOrder : Prop :=
  ∀ s t : State, step s = .next t → s.env.inp.rst = false →
    (t.state = .negCfg → s.state ≠ .idle → s.origin = .neg ∧ (s.state = .rx ∨ s.state = .check)
      ∧ t.negIdx = s.negIdx + 1#3 ∧ s.negIdx.toNat + 1 < s.cfg.nBaud)
    ∧ (t.state = .negCfg → s.state = .idle → t.negIdx = 0#3 ∧ s.env.inp.cmdWord = 0x20000000#32)
    ∧ (t.state ≠ .negCfg → t.negIdx = s.negIdx)
    ∧ (t.accIdx ≠ s.accIdx → t.accIdx = 7#3 ∨ (t.accIdx = s.negIdx ∧ t.state = .idle ∧ t.result.kind = .negOk))

/-! ## Whole commands -/

/-- Rules R150, R151 and R153: a TXN whose response bytes keep up with the RX steps, each there by the sample of the step
that takes it and before the deadline, completes in seven steps, sends its packet in the second, and reports the outcome
of the packet received, in the order of rule R206; bytes left over stay queued. And whenever the bytes come: a TXN whose
fourth byte has come by the sample of step `h`, with the deadline not reached in the three steps after it, has completed
in the same way at most five steps later. Step `k` samples the world `world k`; step 1 is the TX step. -/
def Obligations.TransactionCompletesInSevenSteps : Prop :=
  ∀ (s : State) (w tc : Bool) (reg : Byte) (value : Half) (p : Packet) (world : Nat → EnvStep) (rest : List EnvStep),
    s.env.inp.rst = false → s.state = .idle → s.env.inp.cmdValid = true →
    s.env.inp.cmdWord = encode s.cfg (if w then .txnWr tc reg value else .txnRd tc reg value) →
    ((s.line.rxq ++ arrivedBy world 5).take 4 = [p.b0, p.b1, p.b2, p.b3] →
      (∀ k, 2 ≤ k → k ≤ 5 → k - 1 ≤ (s.line.rxq ++ arrivedBy world k).length) →
      s.env.script = (List.range' 1 6).map world ++ rest →
      (∀ k, 1 ≤ k → k ≤ 6 → (world k).inp.rst = false) →
      (∀ k, 2 ≤ k → k ≤ 5 → waited world 1 k < (if tc then s.cfg.tMon else s.cfg.tGen)) →
      (∃ u, RunsTo 2 s u
        ∧ u.out.tx = some (encode s.cfg (if w then .cmdWr reg value else .cmdRd reg value)))
      ∧ ∃ t, RunsTo 7 s t ∧ EndsWithPacket s t reg p ((s.line.rxq ++ arrivedBy world 6).drop 4))
    ∧ ∀ h : Nat, 2 ≤ h → (s.line.rxq ++ arrivedBy world h).take 4 = [p.b0, p.b1, p.b2, p.b3] →
      s.env.script = (List.range' 1 (h + 4)).map world ++ rest →
      (∀ k, 1 ≤ k → k ≤ h + 4 → (world k).inp.rst = false) →
      (∀ k, 2 ≤ k → k ≤ h + 3 → waited world 1 k < (if tc then s.cfg.tMon else s.cfg.tGen)) →
      ∃ n t, 7 ≤ n ∧ n ≤ h + 5 ∧ RunsTo n s t
        ∧ EndsWithPacket s t reg p ((s.line.rxq ++ arrivedBy world (n - 1)).drop 4)

/-- Rule R58 (in the words of rule R142; the boundary is the spec's decision D11): a TXN to which fewer than four
response bytes have come before the sample that reaches its deadline completes in the step of that sample as
TXN_TIMEOUT, and nothing of the partial response is kept; the bytes no step has taken stay queued. Step `k` samples the
world `world k`, step 1 is the TX step, and step `m` the one that reaches the deadline; bytes may arrive in any step and
any number of steps may wait. With `DEADLINE_INCLUSIVE` true the sample of step `m` is past the deadline, or no byte
waits there; that a sample exactly at the deadline then still times out is the model's reading of the parameter (DEDUCED,
log entry 6), not a rule of the spec. -/
def Obligations.PartialResponseTimesOut : Prop :=
  ∀ (s : State) (w tc : Bool) (reg : Byte) (value : Half) (m : Nat) (world : Nat → EnvStep) (rest : List EnvStep),
    let deadline := if tc then s.cfg.tMon else s.cfg.tGen
    s.env.inp.rst = false → s.state = .idle → s.env.inp.cmdValid = true →
    s.env.inp.cmdWord = encode s.cfg (if w then .txnWr tc reg value else .txnRd tc reg value) →
    2 ≤ m → (s.line.rxq ++ arrivedBy world (m - 1)).length ≤ 3 →
    s.env.script = (List.range' 1 m).map world ++ rest →
    (∀ k, 1 ≤ k → k ≤ m → (world k).inp.rst = false) →
    (∀ k, 2 ≤ k → k < m → waited world 1 k < deadline) → deadline ≤ waited world 1 m →
    (s.cfg.deadlineInclusive = false ∨ deadline < waited world 1 m
      ∨ (arrivedBy world m = [] ∧ s.line.rxq.length + 2 ≤ m)) →
    ∃ t, RunsTo (m + 1) s t ∧ t.state = .idle ∧ t.out.done = true
      ∧ t.result = { kind := .txnTimeout, status := 0#2, reg := 0#8, data := 0#16, echoMm := false }
      ∧ t.last = s.last ∧ t.rxCnt.toNat ≤ (s.line.rxq ++ arrivedBy world (m - 1)).length
      ∧ (s.line.rxq ++ arrivedBy world m).drop t.rxCnt.toNat <+: t.line.rxq
      ∧ (arrivedBy world (m - 1) = [] → s.line.rxq.length + 2 ≤ m → t.rxCnt.toNat = s.line.rxq.length)

/-- Rules R170 to R176 with a device that never answers, each wait ending in its first step: every candidate is
configured and probed in list order, and the command ends as NEG_FAIL with the transport at `BAUD_FALLBACK`. Step `k`
samples the world `world k`; candidate `j` is configured in step 4j+1, settled in 4j+2, probed in 4j+3 and given up in
4j+4. -/
def Obligations.SilentDeviceFailsNegotiation : Prop :=
  ∀ (s : State) (world : Nat → EnvStep) (rest : List EnvStep),
    s.cfg.wf → s.env.inp.rst = false → s.state = .idle → s.env.inp.cmdValid = true →
    s.env.inp.cmdWord = 0x20000000#32 → s.line.rxq = [] →
    s.env.script = (List.range' 1 (4 * s.cfg.nBaud + 1)).map world ++ rest →
    (∀ k, 1 ≤ k → k ≤ 4 * s.cfg.nBaud + 1 → (world k).inp.rst = false ∧ (world k).arrivals = []) →
    (∀ j, j < s.cfg.nBaud → s.cfg.tSettle ≤ waited world (4 * j + 1) (4 * j + 2)
      ∧ s.cfg.tGen ≤ waited world (4 * j + 3) (4 * j + 4)) →
    (∀ j, j < s.cfg.nBaud → (∃ u, RunsTo (4 * j + 2) s u ∧ u.out.cfg = s.cfg.baudList[j]?)
      ∧ ∃ u, RunsTo (4 * j + 4) s u ∧ u.out.tx = some (encode s.cfg (.cmdRd s.cfg.nopReg 0#16)))
    ∧ ∃ t, RunsTo (4 * s.cfg.nBaud + 2) s t ∧ t.state = .idle ∧ t.out.done = true
      ∧ t.result = { kind := .negFail, status := 0#2, reg := 0#8, data := 0#16, echoMm := false }
      ∧ t.baud = s.cfg.baudFallback ∧ t.line.rate = s.cfg.baudFallback ∧ t.baudOk = false ∧ t.accIdx = 7#3
      ∧ t.last = s.last

/-- Rules R170, R174 and R177 with a device that answers at one rate only, its four bytes together, each wait ending in
its first step: the candidates up to it are configured and probed in order, those before it fail, its probe succeeds,
and the command ends there as NEG_OK with the transport at that rate. -/
def Obligations.FirstAnsweringCandidateWins : Prop :=
  ∀ (s : State) (j : Nat) (p : Packet) (r : Response) (world : Nat → EnvStep) (rest : List EnvStep),
    s.cfg.wf → s.env.inp.rst = false → s.state = .idle → s.env.inp.cmdValid = true →
    s.env.inp.cmdWord = 0x20000000#32 → s.line.rxq = [] → j < s.cfg.nBaud →
    decodePacket s.cfg p = some r → r.ce = false → r.status = 0#2 →
    s.env.script = (List.range' 1 (4 * j + 8)).map world ++ rest →
    (∀ k, 1 ≤ k → k ≤ 4 * j + 8 → (world k).inp.rst = false ∧
      (world k).arrivals = (if k = 4 * j + 4 then [p.b0, p.b1, p.b2, p.b3] else [])) →
    (∀ i, i ≤ j → s.cfg.tSettle ≤ waited world (4 * i + 1) (4 * i + 2)) →
    (∀ i, i < j → s.cfg.tGen ≤ waited world (4 * i + 3) (4 * i + 4)) →
    (∀ k, 4 * j + 4 ≤ k → k ≤ 4 * j + 7 → waited world (4 * j + 3) k < s.cfg.tGen) →
    (∀ i, i ≤ j → (∃ u, RunsTo (4 * i + 2) s u ∧ u.out.cfg = s.cfg.baudList[i]?)
      ∧ ∃ u, RunsTo (4 * i + 4) s u ∧ u.out.tx = some (encode s.cfg (.cmdRd s.cfg.nopReg 0#16)))
    ∧ ∃ t, RunsTo (4 * j + 9) s t ∧ t.state = .idle ∧ t.out.done = true
      ∧ t.result = { kind := .negOk, status := 0#2, reg := r.reg, data := r.data, echoMm := r.reg != s.cfg.nopReg }
      ∧ t.baudOk = true ∧ t.accIdx.toNat = j ∧ some t.baud = s.cfg.baudList[j]? ∧ some t.line.rate = s.cfg.baudList[j]?
      ∧ t.last = { valid := true, status := 0#2, reg := r.reg, data := r.data }

/-! ## The invariant -/

/-- The machine right after reset meets the invariant. -/
def Obligations.ResetMeetsInvariant : Prop := StateInv State.reset

/-- Every step keeps the invariant: the receive buffer never overruns and is full in CHECK (rule R26), the candidate
index stays in the list (rule R31), `baud_ok`, `acc_idx` and `baud` agree (rule R30), the transport runs at `S.baud`
(rule R231), a negotiation has accepted nothing and probes the NOP register (rules R171 and R173), failed outcomes
record nothing (rule R201), the two timestamps are not ahead of the clock (rules R25 and R56 (d)). -/
def Obligations.EveryStepKeepsInvariant : Prop :=
  ∀ s t : State, StateInv s → step s = .next t → StateInv t

/-- Under the invariant no step stops: whatever the host, the transport and the device do, the block goes on
(rule R204). -/
def Obligations.NoStepStopsUnderInvariant : Prop :=
  ∀ s : State, StateInv s → ∃ t, step s = .next t

/-! ## The transport -/

/-- Rule R56 (decision D32), the transport's duties in every step: the receive queue keeps arrival order and loses its
head byte exactly on a pop, and `rx_avail` says whether it is empty; the rate is that of the step's `Configure` and
otherwise stays; the clock never runs back, and a sample lies below the one before only where the 32-bit count has
wrapped. And time passes: from every state of the invariant, whatever the free inputs, the clock passes every bound. Two
things here are the model's and no duty of R56 (log entry 3): that a step passes less than 2^32 ms (DESIGN CHOICE), and
that it may pass over the wrap (DEDUCED). -/
def Obligations.TransportKeepsItsDuties : Prop :=
  (∀ s t : State, step s = .next t →
    (t.out.rxPop = false → s.line.rxq <+: t.line.rxq)
    ∧ (t.out.rxPop = true → ∃ b rest, s.line.rxq = b :: rest ∧ rest <+: t.line.rxq
        ∧ t.rxbuf = putByte s.rxbuf s.rxCnt b)
    ∧ (rxAvail s = true ↔ s.line.rxq ≠ [])
    ∧ t.line.rate = t.out.cfg.getD s.line.rate
    ∧ s.line.time ≤ t.line.time ∧ t.line.time < s.line.time + 2 ^ 32
    ∧ (nowMs t < nowMs s → s.line.time / 2 ^ 32 < t.line.time / 2 ^ 32))
  ∧ ∀ (s : State) (bound : Nat), StateInv s → ∃ k t, RunsTo k s t ∧ bound ≤ t.line.time
end

