-- ==== Sys2Proof/Laws/State.lean ====
section
/-! SUPPORT. What each shared operation writes and leaves, one lemma per field, each true by unfolding its record update
once; later proofs cite these through simp. -/

namespace Sys2Proof.Machine

@[simp] theorem quiet_cfg (s : State) : (quiet s).cfg = s.cfg := rfl
@[simp] theorem quiet_state (s : State) : (quiet s).state = s.state := rfl
@[simp] theorem quiet_reqReg (s : State) : (quiet s).reqReg = s.reqReg := rfl
@[simp] theorem quiet_reqVal (s : State) : (quiet s).reqVal = s.reqVal := rfl
@[simp] theorem quiet_reqW (s : State) : (quiet s).reqW = s.reqW := rfl
@[simp] theorem quiet_reqTc (s : State) : (quiet s).reqTc = s.reqTc := rfl
@[simp] theorem quiet_origin (s : State) : (quiet s).origin = s.origin := rfl
@[simp] theorem quiet_t0 (s : State) : (quiet s).t0 = s.t0 := rfl
@[simp] theorem quiet_tCfg (s : State) : (quiet s).tCfg = s.tCfg := rfl
@[simp] theorem quiet_rxbuf (s : State) : (quiet s).rxbuf = s.rxbuf := rfl
@[simp] theorem quiet_rxCnt (s : State) : (quiet s).rxCnt = s.rxCnt := rfl
@[simp] theorem quiet_result (s : State) : (quiet s).result = s.result := rfl
@[simp] theorem quiet_last (s : State) : (quiet s).last = s.last := rfl
@[simp] theorem quiet_verbose (s : State) : (quiet s).verbose = s.verbose := rfl
@[simp] theorem quiet_baud (s : State) : (quiet s).baud = s.baud := rfl
@[simp] theorem quiet_baudOk (s : State) : (quiet s).baudOk = s.baudOk := rfl
@[simp] theorem quiet_accIdx (s : State) : (quiet s).accIdx = s.accIdx := rfl
@[simp] theorem quiet_negIdx (s : State) : (quiet s).negIdx = s.negIdx := rfl
@[simp] theorem quiet_out (s : State) : (quiet s).out = Outputs.quiet := rfl
@[simp] theorem quiet_line (s : State) : (quiet s).line = s.line := rfl
@[simp] theorem quiet_env (s : State) : (quiet s).env = s.env := rfl

@[simp] theorem txWrite_cfg (p : Packet) (s : State) : (txWrite p s).cfg = s.cfg := rfl
@[simp] theorem txWrite_state (p : Packet) (s : State) : (txWrite p s).state = s.state := rfl
@[simp] theorem txWrite_reqReg (p : Packet) (s : State) : (txWrite p s).reqReg = s.reqReg := rfl
@[simp] theorem txWrite_reqVal (p : Packet) (s : State) : (txWrite p s).reqVal = s.reqVal := rfl
@[simp] theorem txWrite_reqW (p : Packet) (s : State) : (txWrite p s).reqW = s.reqW := rfl
@[simp] theorem txWrite_reqTc (p : Packet) (s : State) : (txWrite p s).reqTc = s.reqTc := rfl
@[simp] theorem txWrite_origin (p : Packet) (s : State) : (txWrite p s).origin = s.origin := rfl
@[simp] theorem txWrite_t0 (p : Packet) (s : State) : (txWrite p s).t0 = s.t0 := rfl
@[simp] theorem txWrite_tCfg (p : Packet) (s : State) : (txWrite p s).tCfg = s.tCfg := rfl
@[simp] theorem txWrite_rxbuf (p : Packet) (s : State) : (txWrite p s).rxbuf = s.rxbuf := rfl
@[simp] theorem txWrite_rxCnt (p : Packet) (s : State) : (txWrite p s).rxCnt = s.rxCnt := rfl
@[simp] theorem txWrite_result (p : Packet) (s : State) : (txWrite p s).result = s.result := rfl
@[simp] theorem txWrite_last (p : Packet) (s : State) : (txWrite p s).last = s.last := rfl
@[simp] theorem txWrite_verbose (p : Packet) (s : State) : (txWrite p s).verbose = s.verbose := rfl
@[simp] theorem txWrite_baud (p : Packet) (s : State) : (txWrite p s).baud = s.baud := rfl
@[simp] theorem txWrite_baudOk (p : Packet) (s : State) : (txWrite p s).baudOk = s.baudOk := rfl
@[simp] theorem txWrite_accIdx (p : Packet) (s : State) : (txWrite p s).accIdx = s.accIdx := rfl
@[simp] theorem txWrite_negIdx (p : Packet) (s : State) : (txWrite p s).negIdx = s.negIdx := rfl
@[simp] theorem txWrite_out (p : Packet) (s : State) : (txWrite p s).out = { s.out with tx := some (wordOfPacket p) } := rfl
@[simp] theorem txWrite_line (p : Packet) (s : State) : (txWrite p s).line = s.line := rfl
@[simp] theorem txWrite_env (p : Packet) (s : State) : (txWrite p s).env = s.env := rfl

@[simp] theorem configure_cfg (b : Rate) (s : State) : (configure b s).cfg = s.cfg := rfl
@[simp] theorem configure_state (b : Rate) (s : State) : (configure b s).state = s.state := rfl
@[simp] theorem configure_reqReg (b : Rate) (s : State) : (configure b s).reqReg = s.reqReg := rfl
@[simp] theorem configure_reqVal (b : Rate) (s : State) : (configure b s).reqVal = s.reqVal := rfl
@[simp] theorem configure_reqW (b : Rate) (s : State) : (configure b s).reqW = s.reqW := rfl
@[simp] theorem configure_reqTc (b : Rate) (s : State) : (configure b s).reqTc = s.reqTc := rfl
@[simp] theorem configure_origin (b : Rate) (s : State) : (configure b s).origin = s.origin := rfl
@[simp] theorem configure_t0 (b : Rate) (s : State) : (configure b s).t0 = s.t0 := rfl
@[simp] theorem configure_tCfg (b : Rate) (s : State) : (configure b s).tCfg = s.tCfg := rfl
@[simp] theorem configure_rxbuf (b : Rate) (s : State) : (configure b s).rxbuf = s.rxbuf := rfl
@[simp] theorem configure_rxCnt (b : Rate) (s : State) : (configure b s).rxCnt = s.rxCnt := rfl
@[simp] theorem configure_result (b : Rate) (s : State) : (configure b s).result = s.result := rfl
@[simp] theorem configure_last (b : Rate) (s : State) : (configure b s).last = s.last := rfl
@[simp] theorem configure_verbose (b : Rate) (s : State) : (configure b s).verbose = s.verbose := rfl
@[simp] theorem configure_baud (b : Rate) (s : State) : (configure b s).baud = b := rfl
@[simp] theorem configure_baudOk (b : Rate) (s : State) : (configure b s).baudOk = s.baudOk := rfl
@[simp] theorem configure_accIdx (b : Rate) (s : State) : (configure b s).accIdx = s.accIdx := rfl
@[simp] theorem configure_negIdx (b : Rate) (s : State) : (configure b s).negIdx = s.negIdx := rfl
@[simp] theorem configure_out (b : Rate) (s : State) : (configure b s).out = { s.out with cfg := some b } := rfl
@[simp] theorem configure_line (b : Rate) (s : State) : (configure b s).line = { s.line with rate := b } := rfl
@[simp] theorem configure_env (b : Rate) (s : State) : (configure b s).env = s.env := rfl

@[simp] theorem rxTake_cfg (b : Byte) (rest : List Byte) (s : State) : (rxTake b rest s).cfg = s.cfg := rfl
@[simp] theorem rxTake_state (b : Byte) (rest : List Byte) (s : State) : (rxTake b rest s).state = s.state := rfl
@[simp] theorem rxTake_reqReg (b : Byte) (rest : List Byte) (s : State) : (rxTake b rest s).reqReg = s.reqReg := rfl
@[simp] theorem rxTake_reqVal (b : Byte) (rest : List Byte) (s : State) : (rxTake b rest s).reqVal = s.reqVal := rfl
@[simp] theorem rxTake_reqW (b : Byte) (rest : List Byte) (s : State) : (rxTake b rest s).reqW = s.reqW := rfl
@[simp] theorem rxTake_reqTc (b : Byte) (rest : List Byte) (s : State) : (rxTake b rest s).reqTc = s.reqTc := rfl
@[simp] theorem rxTake_origin (b : Byte) (rest : List Byte) (s : State) : (rxTake b rest s).origin = s.origin := rfl
@[simp] theorem rxTake_t0 (b : Byte) (rest : List Byte) (s : State) : (rxTake b rest s).t0 = s.t0 := rfl
@[simp] theorem rxTake_tCfg (b : Byte) (rest : List Byte) (s : State) : (rxTake b rest s).tCfg = s.tCfg := rfl
@[simp] theorem rxTake_rxbuf (b : Byte) (rest : List Byte) (s : State) : (rxTake b rest s).rxbuf = putByte s.rxbuf s.rxCnt b := rfl
@[simp] theorem rxTake_rxCnt (b : Byte) (rest : List Byte) (s : State) : (rxTake b rest s).rxCnt = s.rxCnt + 1#3 := rfl
@[simp] theorem rxTake_result (b : Byte) (rest : List Byte) (s : State) : (rxTake b rest s).result = s.result := rfl
@[simp] theorem rxTake_last (b : Byte) (rest : List Byte) (s : State) : (rxTake b rest s).last = s.last := rfl
@[simp] theorem rxTake_verbose (b : Byte) (rest : List Byte) (s : State) : (rxTake b rest s).verbose = s.verbose := rfl
@[simp] theorem rxTake_baud (b : Byte) (rest : List Byte) (s : State) : (rxTake b rest s).baud = s.baud := rfl
@[simp] theorem rxTake_baudOk (b : Byte) (rest : List Byte) (s : State) : (rxTake b rest s).baudOk = s.baudOk := rfl
@[simp] theorem rxTake_accIdx (b : Byte) (rest : List Byte) (s : State) : (rxTake b rest s).accIdx = s.accIdx := rfl
@[simp] theorem rxTake_negIdx (b : Byte) (rest : List Byte) (s : State) : (rxTake b rest s).negIdx = s.negIdx := rfl
@[simp] theorem rxTake_out (b : Byte) (rest : List Byte) (s : State) : (rxTake b rest s).out = { s.out with rxPop := true } := rfl
@[simp] theorem rxTake_line (b : Byte) (rest : List Byte) (s : State) : (rxTake b rest s).line = { s.line with rxq := rest } := rfl
@[simp] theorem rxTake_env (b : Byte) (rest : List Byte) (s : State) : (rxTake b rest s).env = s.env := rfl

@[simp] theorem finish_cfg (o : Result) (s : State) : (finish o s).cfg = s.cfg := rfl
@[simp] theorem finish_state (o : Result) (s : State) : (finish o s).state = .idle := rfl
@[simp] theorem finish_reqReg (o : Result) (s : State) : (finish o s).reqReg = s.reqReg := rfl
@[simp] theorem finish_reqVal (o : Result) (s : State) : (finish o s).reqVal = s.reqVal := rfl
@[simp] theorem finish_reqW (o : Result) (s : State) : (finish o s).reqW = s.reqW := rfl
@[simp] theorem finish_reqTc (o : Result) (s : State) : (finish o s).reqTc = s.reqTc := rfl
@[simp] theorem finish_origin (o : Result) (s : State) : (finish o s).origin = s.origin := rfl
@[simp] theorem finish_t0 (o : Result) (s : State) : (finish o s).t0 = s.t0 := rfl
@[simp] theorem finish_tCfg (o : Result) (s : State) : (finish o s).tCfg = s.tCfg := rfl
@[simp] theorem finish_rxbuf (o : Result) (s : State) : (finish o s).rxbuf = s.rxbuf := rfl
@[simp] theorem finish_rxCnt (o : Result) (s : State) : (finish o s).rxCnt = s.rxCnt := rfl
@[simp] theorem finish_result (o : Result) (s : State) : (finish o s).result = o := rfl
@[simp] theorem finish_last (o : Result) (s : State) : (finish o s).last = s.last := rfl
@[simp] theorem finish_verbose (o : Result) (s : State) : (finish o s).verbose = s.verbose := rfl
@[simp] theorem finish_baud (o : Result) (s : State) : (finish o s).baud = s.baud := rfl
@[simp] theorem finish_baudOk (o : Result) (s : State) : (finish o s).baudOk = s.baudOk := rfl
@[simp] theorem finish_accIdx (o : Result) (s : State) : (finish o s).accIdx = s.accIdx := rfl
@[simp] theorem finish_negIdx (o : Result) (s : State) : (finish o s).negIdx = s.negIdx := rfl
@[simp] theorem finish_out (o : Result) (s : State) : (finish o s).out = { s.out with done := true } := rfl
@[simp] theorem finish_line (o : Result) (s : State) : (finish o s).line = s.line := rfl
@[simp] theorem finish_env (o : Result) (s : State) : (finish o s).env = s.env := rfl

@[simp] theorem acceptTxn_cfg (w tc : Bool) (reg : Byte) (value : Half) (s : State) : (acceptTxn w tc reg value s).cfg = s.cfg := rfl
@[simp] theorem acceptTxn_state (w tc : Bool) (reg : Byte) (value : Half) (s : State) : (acceptTxn w tc reg value s).state = .tx := rfl
@[simp] theorem acceptTxn_reqReg (w tc : Bool) (reg : Byte) (value : Half) (s : State) : (acceptTxn w tc reg value s).reqReg = reg := rfl
@[simp] theorem acceptTxn_reqVal (w tc : Bool) (reg : Byte) (value : Half) (s : State) : (acceptTxn w tc reg value s).reqVal = value := rfl
@[simp] theorem acceptTxn_reqW (w tc : Bool) (reg : Byte) (value : Half) (s : State) : (acceptTxn w tc reg value s).reqW = w := rfl
@[simp] theorem acceptTxn_reqTc (w tc : Bool) (reg : Byte) (value : Half) (s : State) : (acceptTxn w tc reg value s).reqTc = tc := rfl
@[simp] theorem acceptTxn_origin (w tc : Bool) (reg : Byte) (value : Half) (s : State) : (acceptTxn w tc reg value s).origin = .host := rfl
@[simp] theorem acceptTxn_t0 (w tc : Bool) (reg : Byte) (value : Half) (s : State) : (acceptTxn w tc reg value s).t0 = s.t0 := rfl
@[simp] theorem acceptTxn_tCfg (w tc : Bool) (reg : Byte) (value : Half) (s : State) : (acceptTxn w tc reg value s).tCfg = s.tCfg := rfl
@[simp] theorem acceptTxn_rxbuf (w tc : Bool) (reg : Byte) (value : Half) (s : State) : (acceptTxn w tc reg value s).rxbuf = s.rxbuf := rfl
@[simp] theorem acceptTxn_rxCnt (w tc : Bool) (reg : Byte) (value : Half) (s : State) : (acceptTxn w tc reg value s).rxCnt = s.rxCnt := rfl
@[simp] theorem acceptTxn_result (w tc : Bool) (reg : Byte) (value : Half) (s : State) : (acceptTxn w tc reg value s).result = s.result := rfl
@[simp] theorem acceptTxn_last (w tc : Bool) (reg : Byte) (value : Half) (s : State) : (acceptTxn w tc reg value s).last = s.last := rfl
@[simp] theorem acceptTxn_verbose (w tc : Bool) (reg : Byte) (value : Half) (s : State) : (acceptTxn w tc reg value s).verbose = s.verbose := rfl
@[simp] theorem acceptTxn_baud (w tc : Bool) (reg : Byte) (value : Half) (s : State) : (acceptTxn w tc reg value s).baud = s.baud := rfl
@[simp] theorem acceptTxn_baudOk (w tc : Bool) (reg : Byte) (value : Half) (s : State) : (acceptTxn w tc reg value s).baudOk = s.baudOk := rfl
@[simp] theorem acceptTxn_accIdx (w tc : Bool) (reg : Byte) (value : Half) (s : State) : (acceptTxn w tc reg value s).accIdx = s.accIdx := rfl
@[simp] theorem acceptTxn_negIdx (w tc : Bool) (reg : Byte) (value : Half) (s : State) : (acceptTxn w tc reg value s).negIdx = s.negIdx := rfl
@[simp] theorem acceptTxn_out (w tc : Bool) (reg : Byte) (value : Half) (s : State) : (acceptTxn w tc reg value s).out = s.out := rfl
@[simp] theorem acceptTxn_line (w tc : Bool) (reg : Byte) (value : Half) (s : State) : (acceptTxn w tc reg value s).line = s.line := rfl
@[simp] theorem acceptTxn_env (w tc : Bool) (reg : Byte) (value : Half) (s : State) : (acceptTxn w tc reg value s).env = s.env := rfl

@[simp] theorem sendRequest_cfg (p : Packet) (s : State) : (sendRequest p s).cfg = s.cfg := rfl
@[simp] theorem sendRequest_state (p : Packet) (s : State) : (sendRequest p s).state = .rx := rfl
@[simp] theorem sendRequest_reqReg (p : Packet) (s : State) : (sendRequest p s).reqReg = s.reqReg := rfl
@[simp] theorem sendRequest_reqVal (p : Packet) (s : State) : (sendRequest p s).reqVal = s.reqVal := rfl
@[simp] theorem sendRequest_reqW (p : Packet) (s : State) : (sendRequest p s).reqW = s.reqW := rfl
@[simp] theorem sendRequest_reqTc (p : Packet) (s : State) : (sendRequest p s).reqTc = s.reqTc := rfl
@[simp] theorem sendRequest_origin (p : Packet) (s : State) : (sendRequest p s).origin = s.origin := rfl
@[simp] theorem sendRequest_t0 (p : Packet) (s : State) : (sendRequest p s).t0 = nowMs s := rfl
@[simp] theorem sendRequest_tCfg (p : Packet) (s : State) : (sendRequest p s).tCfg = s.tCfg := rfl
@[simp] theorem sendRequest_rxbuf (p : Packet) (s : State) : (sendRequest p s).rxbuf = s.rxbuf := rfl
@[simp] theorem sendRequest_rxCnt (p : Packet) (s : State) : (sendRequest p s).rxCnt = 0#3 := rfl
@[simp] theorem sendRequest_result (p : Packet) (s : State) : (sendRequest p s).result = s.result := rfl
@[simp] theorem sendRequest_last (p : Packet) (s : State) : (sendRequest p s).last = s.last := rfl
@[simp] theorem sendRequest_verbose (p : Packet) (s : State) : (sendRequest p s).verbose = s.verbose := rfl
@[simp] theorem sendRequest_baud (p : Packet) (s : State) : (sendRequest p s).baud = s.baud := rfl
@[simp] theorem sendRequest_baudOk (p : Packet) (s : State) : (sendRequest p s).baudOk = s.baudOk := rfl
@[simp] theorem sendRequest_accIdx (p : Packet) (s : State) : (sendRequest p s).accIdx = s.accIdx := rfl
@[simp] theorem sendRequest_negIdx (p : Packet) (s : State) : (sendRequest p s).negIdx = s.negIdx := rfl
@[simp] theorem sendRequest_out (p : Packet) (s : State) : (sendRequest p s).out = { s.out with tx := some (wordOfPacket p) } := rfl
@[simp] theorem sendRequest_line (p : Packet) (s : State) : (sendRequest p s).line = s.line := rfl
@[simp] theorem sendRequest_env (p : Packet) (s : State) : (sendRequest p s).env = s.env := rfl

/-! The passage to the next step writes the transport's queue and the world only. -/

@[simp] theorem advance_cfg (s : State) : (advance s).cfg = s.cfg := by unfold advance; split <;> rfl
@[simp] theorem advance_state (s : State) : (advance s).state = s.state := by unfold advance; split <;> rfl
@[simp] theorem advance_reqReg (s : State) : (advance s).reqReg = s.reqReg := by unfold advance; split <;> rfl
@[simp] theorem advance_reqVal (s : State) : (advance s).reqVal = s.reqVal := by unfold advance; split <;> rfl
@[simp] theorem advance_reqW (s : State) : (advance s).reqW = s.reqW := by unfold advance; split <;> rfl
@[simp] theorem advance_reqTc (s : State) : (advance s).reqTc = s.reqTc := by unfold advance; split <;> rfl
@[simp] theorem advance_origin (s : State) : (advance s).origin = s.origin := by unfold advance; split <;> rfl
@[simp] theorem advance_t0 (s : State) : (advance s).t0 = s.t0 := by unfold advance; split <;> rfl
@[simp] theorem advance_tCfg (s : State) : (advance s).tCfg = s.tCfg := by unfold advance; split <;> rfl
@[simp] theorem advance_rxbuf (s : State) : (advance s).rxbuf = s.rxbuf := by unfold advance; split <;> rfl
@[simp] theorem advance_rxCnt (s : State) : (advance s).rxCnt = s.rxCnt := by unfold advance; split <;> rfl
@[simp] theorem advance_result (s : State) : (advance s).result = s.result := by unfold advance; split <;> rfl
@[simp] theorem advance_last (s : State) : (advance s).last = s.last := by unfold advance; split <;> rfl
@[simp] theorem advance_verbose (s : State) : (advance s).verbose = s.verbose := by unfold advance; split <;> rfl
@[simp] theorem advance_baud (s : State) : (advance s).baud = s.baud := by unfold advance; split <;> rfl
@[simp] theorem advance_baudOk (s : State) : (advance s).baudOk = s.baudOk := by unfold advance; split <;> rfl
@[simp] theorem advance_accIdx (s : State) : (advance s).accIdx = s.accIdx := by unfold advance; split <;> rfl
@[simp] theorem advance_negIdx (s : State) : (advance s).negIdx = s.negIdx := by unfold advance; split <;> rfl
@[simp] theorem advance_out (s : State) : (advance s).out = s.out := by unfold advance; split <;> rfl
@[simp] theorem advance_rate (s : State) : (advance s).line.rate = s.line.rate := by unfold advance; split <;> rfl

/-! Between two steps the transport's queue grows at its end and its clock goes on; the sample is the clock's. -/

@[simp] theorem pass_rxq (ms : Word) (a : List Byte) (l : Transport) : (l.pass ms a).rxq = l.rxq ++ a := rfl
@[simp] theorem pass_rate (ms : Word) (a : List Byte) (l : Transport) : (l.pass ms a).rate = l.rate := rfl
@[simp] theorem pass_time (ms : Word) (a : List Byte) (l : Transport) : (l.pass ms a).time = l.time + ms.toNat := rfl

theorem advance_line (s : State) : ∃ ms a, (advance s).line = s.line.pass ms a := by
  unfold advance; split <;> exact ⟨_, _, rfl⟩

theorem nowMs_congr {s t : State} (h : s.line.time = t.line.time) : nowMs s = nowMs t := by simp [nowMs, h]

@[simp] theorem nowMs_quiet (s : State) : nowMs (quiet s) = nowMs s := rfl

/-- A sample is never ahead of the clock it is taken from. -/
theorem nowMs_le_time (s : State) : (nowMs s).toNat ≤ s.line.time := by
  simpa [nowMs] using Nat.mod_le _ _

/-! The diagnostic writes the diagnostic port only. -/

@[simp] theorem diagEcho_cfg (r : Byte) (s : State) : (diagEcho r s).cfg = s.cfg := by unfold diagEcho; split <;> rfl
@[simp] theorem diagEcho_state (r : Byte) (s : State) : (diagEcho r s).state = s.state := by unfold diagEcho; split <;> rfl
@[simp] theorem diagEcho_reqReg (r : Byte) (s : State) : (diagEcho r s).reqReg = s.reqReg := by unfold diagEcho; split <;> rfl
@[simp] theorem diagEcho_reqVal (r : Byte) (s : State) : (diagEcho r s).reqVal = s.reqVal := by unfold diagEcho; split <;> rfl
@[simp] theorem diagEcho_reqW (r : Byte) (s : State) : (diagEcho r s).reqW = s.reqW := by unfold diagEcho; split <;> rfl
@[simp] theorem diagEcho_reqTc (r : Byte) (s : State) : (diagEcho r s).reqTc = s.reqTc := by unfold diagEcho; split <;> rfl
@[simp] theorem diagEcho_origin (r : Byte) (s : State) : (diagEcho r s).origin = s.origin := by unfold diagEcho; split <;> rfl
@[simp] theorem diagEcho_t0 (r : Byte) (s : State) : (diagEcho r s).t0 = s.t0 := by unfold diagEcho; split <;> rfl
@[simp] theorem diagEcho_tCfg (r : Byte) (s : State) : (diagEcho r s).tCfg = s.tCfg := by unfold diagEcho; split <;> rfl
@[simp] theorem diagEcho_rxbuf (r : Byte) (s : State) : (diagEcho r s).rxbuf = s.rxbuf := by unfold diagEcho; split <;> rfl
@[simp] theorem diagEcho_rxCnt (r : Byte) (s : State) : (diagEcho r s).rxCnt = s.rxCnt := by unfold diagEcho; split <;> rfl
@[simp] theorem diagEcho_result (r : Byte) (s : State) : (diagEcho r s).result = s.result := by unfold diagEcho; split <;> rfl
@[simp] theorem diagEcho_last (r : Byte) (s : State) : (diagEcho r s).last = s.last := by unfold diagEcho; split <;> rfl
@[simp] theorem diagEcho_verbose (r : Byte) (s : State) : (diagEcho r s).verbose = s.verbose := by unfold diagEcho; split <;> rfl
@[simp] theorem diagEcho_baud (r : Byte) (s : State) : (diagEcho r s).baud = s.baud := by unfold diagEcho; split <;> rfl
@[simp] theorem diagEcho_baudOk (r : Byte) (s : State) : (diagEcho r s).baudOk = s.baudOk := by unfold diagEcho; split <;> rfl
@[simp] theorem diagEcho_accIdx (r : Byte) (s : State) : (diagEcho r s).accIdx = s.accIdx := by unfold diagEcho; split <;> rfl
@[simp] theorem diagEcho_negIdx (r : Byte) (s : State) : (diagEcho r s).negIdx = s.negIdx := by unfold diagEcho; split <;> rfl
@[simp] theorem diagEcho_line (r : Byte) (s : State) : (diagEcho r s).line = s.line := by unfold diagEcho; split <;> rfl
@[simp] theorem diagEcho_env (r : Byte) (s : State) : (diagEcho r s).env = s.env := by unfold diagEcho; split <;> rfl
@[simp] theorem diagEcho_out_done (r : Byte) (s : State) : (diagEcho r s).out.done = s.out.done := by unfold diagEcho; split <;> rfl
@[simp] theorem diagEcho_out_tx (r : Byte) (s : State) : (diagEcho r s).out.tx = s.out.tx := by unfold diagEcho; split <;> rfl
@[simp] theorem diagEcho_out_rxPop (r : Byte) (s : State) : (diagEcho r s).out.rxPop = s.out.rxPop := by unfold diagEcho; split <;> rfl
@[simp] theorem diagEcho_out_cfg (r : Byte) (s : State) : (diagEcho r s).out.cfg = s.out.cfg := by unfold diagEcho; split <;> rfl

end Sys2Proof.Machine
end

