-- ==== Sys2Proof/Laws/Ops.lean ====
section
/-! SUPPORT. What each shared operation can do, said once: the cases of a completion, of the waits, and of a step. -/

namespace Sys2Proof.Machine

/-- A completion ends a host command, accepts the candidate, goes to the next one, or gives up. -/
theorem complete_cases (o : Result) (s : State) :
    (s.origin = .host ∧ complete o s = finish o s)
    ∨ (s.origin = .neg ∧ probeSucceeds o = true
        ∧ complete o s = { finish { o with kind := .negOk } s with baudOk := true, accIdx := s.negIdx })
    ∨ (s.origin = .neg ∧ probeSucceeds o = false ∧ s.negIdx.toNat + 1 < s.cfg.nBaud
        ∧ complete o s = { s with negIdx := s.negIdx + 1#3, state := .negCfg })
    ∨ (s.origin = .neg ∧ probeSucceeds o = false ∧ ¬ s.negIdx.toNat + 1 < s.cfg.nBaud
        ∧ complete o s = { s with state := .negFallback }) := by
  cases h : s.origin with
  | host => exact .inl ⟨rfl, by simp [complete, h]⟩
  | neg =>
    cases hp : probeSucceeds o with
    | true => exact .inr (.inl ⟨rfl, rfl, by simp [complete, negStep, h, hp]⟩)
    | false =>
      by_cases hn : s.negIdx.toNat + 1 < s.cfg.nBaud
      · exact .inr (.inr (.inl ⟨rfl, rfl, hn, by simp [complete, negStep, h, hp, hn]⟩))
      · exact .inr (.inr (.inr ⟨rfl, rfl, hn, by simp [complete, negStep, h, hp, hn]⟩))

/-! A completion and an accepted response write nothing of the transport, the world, the parameters or the timestamps. -/

@[simp] theorem complete_line (o : Result) (s : State) : (complete o s).line = s.line := by
  rcases complete_cases o s with ⟨_, e⟩ | ⟨_, _, e⟩ | ⟨_, _, _, e⟩ | ⟨_, _, _, e⟩ <;> simp [e]

@[simp] theorem acceptResponse_line (st : Status) (r : Byte) (d : Half) (s : State) :
    (acceptResponse st r d s).line = s.line := by
  simp [acceptResponse]

@[simp] theorem complete_env (o : Result) (s : State) : (complete o s).env = s.env := by
  rcases complete_cases o s with ⟨_, e⟩ | ⟨_, _, e⟩ | ⟨_, _, _, e⟩ | ⟨_, _, _, e⟩ <;> simp [e]

@[simp] theorem acceptResponse_env (st : Status) (r : Byte) (d : Half) (s : State) :
    (acceptResponse st r d s).env = s.env := by
  simp [acceptResponse]

@[simp] theorem complete_cfg (o : Result) (s : State) : (complete o s).cfg = s.cfg := by
  rcases complete_cases o s with ⟨_, e⟩ | ⟨_, _, e⟩ | ⟨_, _, _, e⟩ | ⟨_, _, _, e⟩ <;> simp [e]

@[simp] theorem acceptResponse_cfg (st : Status) (r : Byte) (d : Half) (s : State) :
    (acceptResponse st r d s).cfg = s.cfg := by
  simp [acceptResponse]

@[simp] theorem complete_t0 (o : Result) (s : State) : (complete o s).t0 = s.t0 := by
  rcases complete_cases o s with ⟨_, e⟩ | ⟨_, _, e⟩ | ⟨_, _, _, e⟩ | ⟨_, _, _, e⟩ <;> simp [e]

@[simp] theorem acceptResponse_t0 (st : Status) (r : Byte) (d : Half) (s : State) :
    (acceptResponse st r d s).t0 = s.t0 := by
  simp [acceptResponse]

@[simp] theorem complete_tCfg (o : Result) (s : State) : (complete o s).tCfg = s.tCfg := by
  rcases complete_cases o s with ⟨_, e⟩ | ⟨_, _, e⟩ | ⟨_, _, _, e⟩ | ⟨_, _, _, e⟩ <;> simp [e]

@[simp] theorem acceptResponse_tCfg (st : Status) (r : Byte) (d : Half) (s : State) :
    (acceptResponse st r d s).tCfg = s.tCfg := by
  simp [acceptResponse]

/-- A probe succeeds on TXN_OK with status 0 and on nothing else (rule R174). -/
theorem probeSucceeds_iff (o : Result) : probeSucceeds o = true ↔ o.kind = .txnOk ∧ o.status = 0#2 := by
  simp [probeSucceeds]

/-- With the default parameter the deadline is the plain comparison of rule R147. -/
theorem expired_exclusive {c : Config} (h : c.deadlineInclusive = false) (tc : Bool) (e : Word) (waiting : Bool) :
    expired c tc e waiting = decide (deadline c tc ≤ e) := by
  simp [expired, h]

/-- Where no byte waits, the parameter makes no difference. -/
theorem expired_empty (c : Config) (tc : Bool) (e : Word) : expired c tc e false = decide (deadline c tc ≤ e) := by
  simp [expired]

/-- Before the deadline no RX step times out. -/
theorem not_expired_of_lt {c : Config} {tc : Bool} {e : Word} (h : e < deadline c tc) (waiting : Bool) :
    expired c tc e waiting = false := by
  have : ¬ deadline c tc ≤ e := BitVec.not_le.mpr h
  simp [expired, this]

/-- The settling wait is over exactly when `T_SETTLE` has passed (rule R173). -/
theorem settled_iff (c : Config) (e : Word) : settled c e = true ↔ c.tSettle ≤ e := by
  simp [settled]

/-- What an RX step can do. -/
theorem receiveStep_cases (s : State) :
    (expired s.cfg s.reqTc (elapsed (nowMs s) s.t0) (!s.line.rxq.isEmpty) = true
        ∧ receiveStep s = .next (complete (.plain .txnTimeout) s))
    ∨ (expired s.cfg s.reqTc (elapsed (nowMs s) s.t0) (!s.line.rxq.isEmpty) = false ∧ s.line.rxq = []
        ∧ receiveStep s = .next s)
    ∨ (∃ b rest, expired s.cfg s.reqTc (elapsed (nowMs s) s.t0) (!s.line.rxq.isEmpty) = false
        ∧ s.line.rxq = b :: rest ∧ s.rxCnt = 3#3 ∧ receiveStep s = .next { rxTake b rest s with state := .check })
    ∨ (∃ b rest, expired s.cfg s.reqTc (elapsed (nowMs s) s.t0) (!s.line.rxq.isEmpty) = false
        ∧ s.line.rxq = b :: rest ∧ s.rxCnt.toNat < 3 ∧ receiveStep s = .next (rxTake b rest s))
    ∨ (s.rxCnt.toNat > 3 ∧ receiveStep s = .fault .rxCountOutOfRange) := by
  unfold receiveStep
  split
  · next h => exact .inl ⟨h, rfl⟩
  · next h =>
    have h' := Bool.eq_false_iff.mpr h
    split
    · next hq => exact .inr (.inl ⟨h', hq, rfl⟩)
    · next b rest hq =>
      split
      · next h3 => exact .inr (.inr (.inr (.inr ⟨by simpa [BitVec.lt_def] using h3, rfl⟩)))
      · next h3 =>
        split
        · next he => exact .inr (.inr (.inl ⟨b, rest, h', hq, he, rfl⟩))
        · next he =>
          refine .inr (.inr (.inr (.inl ⟨b, rest, h', hq, ?_, rfl⟩)))
          have : s.rxCnt.toNat ≠ 3 := fun h => he (BitVec.eq_of_toNat_eq (by simpa using h))
          simp [BitVec.lt_def] at h3
          omega

/-- What a NEG_CFG step can do. -/
theorem candidateStep_cases (s : State) :
    (∃ b, s.cfg.baudList[s.negIdx.toNat]? = some b
        ∧ candidateStep s = .next { configure b s with tCfg := nowMs s, state := .negSettle })
    ∨ (s.cfg.baudList[s.negIdx.toNat]? = none ∧ candidateStep s = .fault .candidateIndexOutOfRange) := by
  unfold candidateStep
  split
  · next b h => exact .inl ⟨b, h, rfl⟩
  · next h => exact .inr ⟨h, rfl⟩

/-- A step that answers a next state is what was fetched, run on quiet outputs, and then the world's next inputs. -/
theorem step_next {s t : State} (h : step s = .next t) :
    ∃ u, perform (fetch s) (quiet s) = .next u ∧ t = advance u := by
  unfold step at h
  cases hp : perform (fetch s) (quiet s) with
  | next u => exact ⟨u, rfl, by simpa [andThen, hp] using h.symm⟩
  | fault r => simp [andThen, hp] at h
  | refused r => simp [andThen, hp] at h

/-- The other direction of `step_next`. -/
theorem step_of_perform {s u : State} (h : perform (fetch s) (quiet s) = .next u) : step s = .next (advance u) := by
  simp [step, andThen, h]

/-- The passage to the next step where a script says what comes. -/
theorem advance_scripted {s : State} {e : EnvStep} {rest : List EnvStep} (h : s.env.script = e :: rest) :
    advance s = { s with line := s.line.pass e.ms e.arrivals, env := { s.env with inp := e.inp, script := rest } } := by
  simp [advance, h]

/-- What a step runs depends on the state before the outputs are made quiet, and equally after. -/
@[simp] theorem fetch_quiet (s : State) : fetch (quiet s) = fetch s := rfl

end Sys2Proof.Machine
end

