-- ==== Sys2Proof/Laws/Packet.lean ====
section
/-! SUPPORT. The small laws of packets, nibbles, rows and outcomes: joining and splitting, what SEAL keeps, the six
response layouts, and what the shared operations answer. -/

namespace Sys2Proof.Machine

@[simp] theorem lowNibble_append (a b : Nibble) : lowNibble (a ++ b) = b := by
  refine BitVec.eq_of_getLsbD_eq fun k hk => ?_
  simp only [lowNibble, BitVec.getLsbD_append, BitVec.getLsbD_extractLsb']
  interval_cases k <;> simp

@[simp] theorem highNibble_append (a b : Nibble) : highNibble (a ++ b) = a := by
  refine BitVec.eq_of_getLsbD_eq fun k hk => ?_
  simp only [highNibble, BitVec.getLsbD_append, BitVec.getLsbD_extractLsb']
  interval_cases k <;> simp

/-- A byte is its two nibbles. -/
theorem nibbles_append (b : Byte) : highNibble b ++ lowNibble b = b := by
  refine BitVec.eq_of_getLsbD_eq fun k hk => ?_
  simp only [highNibble, lowNibble, BitVec.getLsbD_append, BitVec.getLsbD_extractLsb']
  interval_cases k <;> simp

@[simp] theorem packetOfWord_wordOfPacket (p : Packet) : packetOfWord (wordOfPacket p) = p := by
  cases p
  simp only [packetOfWord, wordOfPacket, Packet.mk.injEq]
  refine ⟨?_, ?_, ?_, ?_⟩ <;>
  · refine BitVec.eq_of_getLsbD_eq fun k hk => ?_
    simp only [BitVec.getLsbD_append, BitVec.getLsbD_extractLsb']
    interval_cases k <;> simp

@[simp] theorem wordOfPacket_packetOfWord (w : Word) : wordOfPacket (packetOfWord w) = w := by
  refine BitVec.eq_of_getLsbD_eq fun k hk => ?_
  simp only [packetOfWord, wordOfPacket, BitVec.getLsbD_append, BitVec.getLsbD_extractLsb']
  interval_cases k <;> simp

@[simp] theorem packetData_packetOf (chk low : Nibble) (reg : Byte) (data : Half) :
    packetData (packetOf chk low reg data) = data := by
  refine BitVec.eq_of_getLsbD_eq fun k hk => ?_
  simp only [packetData, packetOf, BitVec.getLsbD_append, BitVec.getLsbD_extractLsb']
  interval_cases k <;> simp

/-- The checksum reads the low nibble of `b0` and the other three bytes (rule R100). -/
theorem packetChecksum_congr {p q : Packet} (h0 : lowNibble p.b0 = lowNibble q.b0) (h1 : p.b1 = q.b1)
    (h2 : p.b2 = q.b2) (h3 : p.b3 = q.b3) : packetChecksum p = packetChecksum q := by
  simp [packetChecksum, bip4, h0, h1, h2, h3]

@[simp] theorem packetChecksum_sealPacket (p : Packet) : packetChecksum (sealPacket p) = packetChecksum p :=
  packetChecksum_congr (by simp [sealPacket]) rfl rfl rfl

@[simp] theorem highNibble_sealPacket (p : Packet) : highNibble (sealPacket p).b0 = packetChecksum p := by
  simp [sealPacket]

@[simp] theorem lowNibble_sealPacket (p : Packet) : lowNibble (sealPacket p).b0 = lowNibble p.b0 := by
  simp [sealPacket]

/-- A response layout that fits is one of six. -/
theorem layout_cases {c : Config} (h : c.layoutWf) :
    (c.ceBit = 26 ∧ c.statusLsb = 24) ∨ (c.ceBit = 27 ∧ c.statusLsb = 24) ∨ (c.ceBit = 24 ∧ c.statusLsb = 25)
      ∨ (c.ceBit = 27 ∧ c.statusLsb = 25) ∨ (c.ceBit = 24 ∧ c.statusLsb = 26) ∨ (c.ceBit = 25 ∧ c.statusLsb = 26) := by
  obtain ⟨h1, h2, h3, h4, h5, h6⟩ := h
  omega

/-- A status is one of four. -/
theorem status_cases (st : Status) : st = 0#2 ∨ st = 1#2 ∨ st = 2#2 ∨ st = 3#2 := by
  revert st; decide

@[simp] theorem selects_iff (r : Row) (w : Word) : r.selects w = true ↔ w &&& r.mask = r.pattern := by
  simp [Row.selects]

@[simp] theorem andThen_next (f : State → State) (s : State) : andThen f (.next s) = .next (f s) := rfl
@[simp] theorem andThen_fault (f : State → State) (r : Fault) : andThen f (.fault r) = .fault r := rfl
@[simp] theorem andThen_refused (f : State → State) (r : Refusal) : andThen f (.refused r) = .refused r := rfl

end Sys2Proof.Machine
end

