-- ==== Sys2Proof/Laws/PerInstr.lean ====
section
/-! SUPPORT. Per-instruction families: a statement about an instruction as syntax, with one lemma per constructor. -/

namespace Sys2Proof.Laws

/-- The pattern and mask spec/opcode_table.json gives an instruction's row. -/
def tableRow : Instr → Row
  | .txnRd _ _ _ => ⟨0x10000000#32, 0xFB000000#32⟩
  | .txnWr _ _ _ => ⟨0x18000000#32, 0xFB000000#32⟩
  | .negotiate => ⟨0x20000000#32, 0xFFFFFFFF#32⟩
  | .setverb _ => ⟨0x30000000#32, 0xFFFFFFFE#32⟩
  | .cmdRd _ _ => ⟨0x00000000#32, 0x0F000000#32⟩
  | .cmdWr _ _ => ⟨0x08000000#32, 0x0F000000#32⟩
  | .rspBad _ _ _ _ => ⟨0x00000000#32, 0x00000000#32⟩
  | .rspCe _ _ _ _ => ⟨0x08000000#32, 0x08000000#32⟩
  | .rspOk _ _ _ => ⟨0x00000000#32, 0x0B000000#32⟩
  | .rspXe _ _ _ => ⟨0x01000000#32, 0x0B000000#32⟩
  | .rspAea _ _ _ => ⟨0x02000000#32, 0x0B000000#32⟩
  | .rspCp _ _ _ => ⟨0x03000000#32, 0x0B000000#32⟩

/-- With the default parameters an instruction's encoding selects its row of the opcode table. -/
def EncodingSelectsRow.Statement (i : Instr) : Prop := (tableRow i).selects (encode Config.default i) = true

/-- A word selects a row as soon as it agrees with it bit by bit. -/
theorem selects_of_bits {r : Row} {w : Word}
    (h : ∀ k, k < 32 → (w.getLsbD k && r.mask.getLsbD k) = r.pattern.getLsbD k) : r.selects w = true := by
  have : w &&& r.mask = r.pattern := BitVec.eq_of_getLsbD_eq fun k hk => by rw [BitVec.getLsbD_and, h k hk]
  simp [Row.selects, this]

/-- The mask of every wire row lies in bits 27:24: the packet's low header nibble. -/
theorem selects_of_low {low : Nibble} {r : Row} {w : Word} (hw : Machine.lowNibble (Machine.packetOfWord w).b0 = low)
    (hr : r.mask &&& 0xF0FFFFFF#32 = 0#32 ∧ r.pattern &&& 0xF0FFFFFF#32 = 0#32
      ∧ low &&& r.mask.extractLsb' 24 4 = r.pattern.extractLsb' 24 4) : r.selects w = true := by
  obtain ⟨hm, hp, h⟩ := hr
  have hbits : ∀ k, k < 32 → (k < 24 ∨ 28 ≤ k) → r.mask.getLsbD k = false ∧ r.pattern.getLsbD k = false := by
    intro k hk hr
    have h1 := congrArg (·.getLsbD k) hm
    have h2 := congrArg (·.getLsbD k) hp
    simp only [BitVec.getLsbD_and] at h1 h2
    have : (0xF0FFFFFF#32).getLsbD k = true := by
      rcases hr with hr | hr <;> interval_cases k <;> decide
    simpa [this] using And.intro h1 h2
  refine selects_of_bits fun k hk => ?_
  by_cases hr : k < 24 ∨ 28 ≤ k
  · simp [hbits k hk hr]
  · have hk4 : k - 24 < 4 := by omega
    have e : 24 + (k - 24) = k := by omega
    have := congrArg (·.getLsbD (k - 24)) h
    have hl : low.getLsbD (k - 24) = w.getLsbD k := by
      rw [← hw]
      simp [Machine.lowNibble, Machine.packetOfWord, hk4, show k - 24 < 8 by omega, e]
    rw [← hl]
    simpa [hk4, e] using this

/-- The header nibble of a sealed packet is the one it had. -/
theorem low_of_response (ce rsv : Bool) (status : Status) (reg : Byte) (data : Half) :
    Machine.lowNibble (Machine.packetOfWord (responseWord Config.default ce rsv status reg data)).b0
      = Machine.responseLow Config.default ce rsv status := by
  refine BitVec.eq_of_getLsbD_eq fun k hk => ?_
  simp only [responseWord, Machine.lowNibble, Machine.packetOfWord, Machine.wordOfPacket, Machine.sealPacket,
    Machine.packetOf, BitVec.getLsbD_extractLsb', BitVec.getLsbD_append]
  interval_cases k <;> simp

theorem low_of_request (reg : Byte) (value : Half) (w : Bool) :
    Machine.lowNibble (Machine.packetOfWord (Machine.wordOfPacket (Machine.requestPacket Config.default reg value w))).b0
      = BitVec.ofBool w ++ 0#3 := by
  refine BitVec.eq_of_getLsbD_eq fun k hk => ?_
  simp only [Machine.requestPacket, Machine.encodePacket, Machine.lowNibble, Machine.packetOfWord,
    Machine.wordOfPacket, Config.default, BitVec.getLsbD_extractLsb', BitVec.getLsbD_append, BitVec.getLsbD_or,
    BitVec.getLsbD_shiftLeft, BitVec.getLsbD_setWidth]
  interval_cases k <;> simp

theorem EncodingSelectsRow.txnRd (tc : Bool) (reg : Byte) (value : Half) :
    EncodingSelectsRow.Statement (.txnRd tc reg value) := by
  refine selects_of_bits fun k hk => ?_
  simp only [tableRow, encode, txnWord, BitVec.getLsbD_append, BitVec.getLsbD_ofNat]
  interval_cases k <;> simp [Nat.testBit]

theorem EncodingSelectsRow.txnWr (tc : Bool) (reg : Byte) (value : Half) :
    EncodingSelectsRow.Statement (.txnWr tc reg value) := by
  refine selects_of_bits fun k hk => ?_
  simp only [tableRow, encode, txnWord, BitVec.getLsbD_append, BitVec.getLsbD_ofNat]
  interval_cases k <;> simp [Nat.testBit]

theorem EncodingSelectsRow.negotiate : EncodingSelectsRow.Statement .negotiate := by
  unfold EncodingSelectsRow.Statement; decide

theorem EncodingSelectsRow.setverb (v : Bool) : EncodingSelectsRow.Statement (.setverb v) := by
  unfold EncodingSelectsRow.Statement; cases v <;> decide

theorem EncodingSelectsRow.cmdRd (reg : Byte) (value : Half) : EncodingSelectsRow.Statement (.cmdRd reg value) :=
  selects_of_low (low_of_request reg value false) (by simp only [tableRow]; decide)

theorem EncodingSelectsRow.cmdWr (reg : Byte) (value : Half) : EncodingSelectsRow.Statement (.cmdWr reg value) :=
  selects_of_low (low_of_request reg value true) (by simp only [tableRow]; decide)

theorem EncodingSelectsRow.rspBad (chk low : Nibble) (reg : Byte) (data : Half) :
    EncodingSelectsRow.Statement (.rspBad chk low reg data) :=
  selects_of_bits fun _ _ => by simp [tableRow]

theorem EncodingSelectsRow.rspCe (rsv : Bool) (status : Status) (reg : Byte) (data : Half) :
    EncodingSelectsRow.Statement (.rspCe rsv status reg data) :=
  selects_of_low (low_of_response true rsv status reg data)
    (by simp only [tableRow]; revert rsv status; decide)

theorem EncodingSelectsRow.rspOk (rsv : Bool) (reg : Byte) (data : Half) :
    EncodingSelectsRow.Statement (.rspOk rsv reg data) :=
  selects_of_low (low_of_response false rsv 0#2 reg data) (by simp only [tableRow]; revert rsv; decide)

theorem EncodingSelectsRow.rspXe (rsv : Bool) (reg : Byte) (data : Half) :
    EncodingSelectsRow.Statement (.rspXe rsv reg data) :=
  selects_of_low (low_of_response false rsv 1#2 reg data) (by simp only [tableRow]; revert rsv; decide)

theorem EncodingSelectsRow.rspAea (rsv : Bool) (reg : Byte) (data : Half) :
    EncodingSelectsRow.Statement (.rspAea rsv reg data) :=
  selects_of_low (low_of_response false rsv 2#2 reg data) (by simp only [tableRow]; revert rsv; decide)

theorem EncodingSelectsRow.rspCp (rsv : Bool) (reg : Byte) (data : Half) :
    EncodingSelectsRow.Statement (.rspCp rsv reg data) :=
  selects_of_low (low_of_response false rsv 3#2 reg data) (by simp only [tableRow]; revert rsv; decide)

end Sys2Proof.Laws
end

