-- ==== Sys2Proof/Laws/Step.lean ====
section
/-! SUPPORT. Everything a step can do, said once: the cases of a step that answers a next state. Proofs about all steps
go by these cases instead of unfolding `step`. With them, runs taken apart at either end. -/

namespace Sys2Proof.Machine

/-- From `s` (outputs quiet) the machine's step writes `u`, before the world's next inputs come in. One constructor per
rule that says what a step does, with the conditions of that rule. -/
inductive StepCase (s : State) : State → Prop where
  /-- Rule R230. -/
  | reset (hr : s.env.inp.rst = true) : StepCase s (resetBlock s)
  /-- Rule R231. -/
  | boot (hr : s.env.inp.rst = false) (hs : s.state = .rst) : StepCase s (bootStep s)
  /-- IDLE without a command. -/
  | rest (hr : s.env.inp.rst = false) (hs : s.state = .idle) (hv : s.env.inp.cmdValid = false) : StepCase s s
  /-- Rule R130. -/
  | txn (w : Bool) (hr : s.env.inp.rst = false) (hs : s.state = .idle) (hv : s.env.inp.cmdValid = true)
      (hw : (if w then rowTxnWr else rowTxnRd).selects s.env.inp.cmdWord = true) :
      StepCase s (acceptTxn w (tcField s.env.inp.cmdWord) (regField s.env.inp.cmdWord) (valueField s.env.inp.cmdWord) s)
  /-- Rule R171. -/
  | negotiate (hr : s.env.inp.rst = false) (hs : s.state = .idle) (hv : s.env.inp.cmdValid = true)
      (hw : rowNegotiate.selects s.env.inp.cmdWord = true) :
      StepCase s { s with baudOk := false, accIdx := 7#3, negIdx := 0#3, state := .negCfg }
  /-- Rule R180. -/
  | setverb (hr : s.env.inp.rst = false) (hs : s.state = .idle) (hv : s.env.inp.cmdValid = true)
      (hw : rowSetverb.selects s.env.inp.cmdWord = true) :
      StepCase s (finish (.plain .cfgDone) { s with verbose := vField s.env.inp.cmdWord })
  /-- Rule R182. -/
  | illegal (e : DecodeError) (hr : s.env.inp.rst = false) (hs : s.state = .idle) (hv : s.env.inp.cmdValid = true)
      (hw : decodeHost s.env.inp.cmdWord = .rejected e) : StepCase s (finish (.plain .illegal) s)
  /-- Rule R140. -/
  | send (hr : s.env.inp.rst = false) (hs : s.state = .tx) :
      StepCase s (sendRequest (requestPacket s.cfg s.reqReg s.reqVal s.reqW) s)
  /-- Rule R142. -/
  | timeout (hr : s.env.inp.rst = false) (hs : s.state = .rx)
      (he : expired s.cfg s.reqTc (elapsed (nowMs s) s.t0) (!s.line.rxq.isEmpty) = true) :
      StepCase s (complete (.plain .txnTimeout) s)
  /-- Rule R141, no byte. -/
  | poll (hr : s.env.inp.rst = false) (hs : s.state = .rx)
      (he : expired s.cfg s.reqTc (elapsed (nowMs s) s.t0) (!s.line.rxq.isEmpty) = false)
      (hq : s.line.rxq = []) : StepCase s s
  /-- Rule R141, the fourth byte. -/
  | takeLast (b : Byte) (rest : List Byte) (hr : s.env.inp.rst = false) (hs : s.state = .rx)
      (he : expired s.cfg s.reqTc (elapsed (nowMs s) s.t0) (!s.line.rxq.isEmpty) = false)
      (hq : s.line.rxq = b :: rest) (hc : s.rxCnt = 3#3) : StepCase s { rxTake b rest s with state := .check }
  /-- Rule R141, an earlier byte. -/
  | take (b : Byte) (rest : List Byte) (hr : s.env.inp.rst = false) (hs : s.state = .rx)
      (he : expired s.cfg s.reqTc (elapsed (nowMs s) s.t0) (!s.line.rxq.isEmpty) = false)
      (hq : s.line.rxq = b :: rest) (hc : s.rxCnt.toNat < 3) : StepCase s (rxTake b rest s)
  /-- Rule R143. -/
  | checksum (hr : s.env.inp.rst = false) (hs : s.state = .check) (hd : decodePacket s.cfg s.rxbuf = none) :
      StepCase s (complete (.plain .txnChecksum) s)
  /-- Rule R144. -/
  | commError (r : Response) (hr : s.env.inp.rst = false) (hs : s.state = .check)
      (hd : decodePacket s.cfg s.rxbuf = some r) (hc : r.ce = true) : StepCase s (complete (.plain .txnCe) s)
  /-- Rule R145. -/
  | good (r : Response) (hr : s.env.inp.rst = false) (hs : s.state = .check)
      (hd : decodePacket s.cfg s.rxbuf = some r) (hc : r.ce = false) :
      StepCase s (acceptResponse r.status r.reg r.data s)
  /-- Rule R172. -/
  | candidate (b : Rate) (hr : s.env.inp.rst = false) (hs : s.state = .negCfg)
      (hb : s.cfg.baudList[s.negIdx.toNat]? = some b) :
      StepCase s { configure b s with tCfg := nowMs s, state := .negSettle }
  /-- Rule R173. -/
  | settle (hr : s.env.inp.rst = false) (hs : s.state = .negSettle) : StepCase s (settleStep s)
  /-- Rule R176. -/
  | fallback (hr : s.env.inp.rst = false) (hs : s.state = .negFallback) : StepCase s (fallbackStep s)

/-- The host decoder answers host commands only, each for a word that selects its row. -/
theorem decodeHost_ok {w : Word} {i : Instr} (h : decodeHost w = .ok i) :
    (rowTxnRd.selects w = true ∧ i = .txnRd (tcField w) (regField w) (valueField w))
    ∨ (rowTxnWr.selects w = true ∧ i = .txnWr (tcField w) (regField w) (valueField w))
    ∨ (rowNegotiate.selects w = true ∧ i = .negotiate)
    ∨ (rowSetverb.selects w = true ∧ i = .setverb (vField w)) := by
  unfold decodeHost at h
  repeat' split at h
  all_goals simp_all

/-- What CHECK does with a received packet, by what DECODE says of it. -/
theorem exec_classify (c : Config) (p : Packet) (s : State) :
    (decodePacket c p = none ∧ exec (classify c p) s = .next (complete (.plain .txnChecksum) s))
    ∨ (∃ r, decodePacket c p = some r ∧ r.ce = true ∧ exec (classify c p) s = .next (complete (.plain .txnCe) s))
    ∨ ∃ r, decodePacket c p = some r ∧ r.ce = false
        ∧ exec (classify c p) s = .next (acceptResponse r.status r.reg r.data s) := by
  unfold classify
  cases hd : decodePacket c p with
  | none => exact .inl ⟨rfl, rfl⟩
  | some r =>
    cases hc : r.ce with
    | true => exact .inr (.inl ⟨r, rfl, hc, by simp [hc]; rfl⟩)
    | false =>
      refine .inr (.inr ⟨r, rfl, hc, ?_⟩)
      have hst : r.status = 0#2 ∨ r.status = 1#2 ∨ r.status = 2#2 ∨ r.status = 3#2 := by
        generalize r.status = x; revert x; decide
      rcases hst with h | h | h | h <;> simp [hc, h] <;> rfl

/-- What a step that answers a next state has done. -/
theorem step_cases {s t : State} (h : step s = .next t) : ∃ u, StepCase (quiet s) u ∧ t = advance u := by
  obtain ⟨u, hu, rfl⟩ := step_next h
  refine ⟨u, ?_, rfl⟩
  rw [← fetch_quiet] at hu
  generalize quiet s = s at *
  unfold fetch at hu
  cases hr : s.env.inp.rst with
  | true => simp [hr, perform, runMicro] at hu; subst hu; exact .reset hr
  | false =>
    simp only [hr, Bool.false_eq_true, if_false] at hu
    cases hs : s.state with
    | rst => simp [hs, perform, runMicro] at hu; subst hu; exact .boot hr hs
    | idle =>
      simp only [hs] at hu
      cases hv : s.env.inp.cmdValid with
      | false => simp [hv, perform, runMicro] at hu; subst hu; exact .rest hr hs hv
      | true =>
        simp only [hv, if_true, decode] at hu
        cases hd : decodeHost s.env.inp.cmdWord with
        | rejected e =>
          simp [hd, perform, runMicro, execIllegal] at hu; subst hu; exact .illegal e hr hs hv hd
        | ok i =>
          simp only [hd, perform] at hu
          rcases decodeHost_ok hd with ⟨hw, rfl⟩ | ⟨hw, rfl⟩ | ⟨hw, rfl⟩ | ⟨hw, rfl⟩
          · simp [exec, execTxnRd] at hu; subst hu; exact .txn false hr hs hv (by simpa using hw)
          · simp [exec, execTxnWr] at hu; subst hu; exact .txn true hr hs hv (by simpa using hw)
          · simp [exec, execNegotiate] at hu; subst hu; exact .negotiate hr hs hv hw
          · simp [exec, execSetverb] at hu; subst hu; exact .setverb hr hs hv hw
    | tx =>
      simp only [hs, perform, latchedRequest] at hu
      have := StepCase.send hr hs
      cases hw : s.reqW <;> simp [hw, exec, execCmdRd, execCmdWr] at hu <;> subst hu <;> simpa [hw] using this
    | rx =>
      simp only [hs, perform, runMicro] at hu
      rcases receiveStep_cases s with ⟨he, e⟩ | ⟨he, hq, e⟩ | ⟨b, rest, he, hq, hc, e⟩ | ⟨b, rest, he, hq, hc, e⟩
        | ⟨_, e⟩ <;> rw [e] at hu <;> simp at hu <;> subst hu
      · exact .timeout hr hs he
      · exact .poll hr hs he hq
      · exact .takeLast b rest hr hs he hq hc
      · exact .take b rest hr hs he hq hc
    | check =>
      simp only [hs, perform] at hu
      rcases exec_classify s.cfg s.rxbuf s with ⟨hd, e⟩ | ⟨r, hd, hc, e⟩ | ⟨r, hd, hc, e⟩ <;> rw [e] at hu <;>
        simp at hu <;> subst hu
      · exact .checksum hr hs hd
      · exact .commError r hr hs hd hc
      · exact .good r hr hs hd hc
    | negCfg =>
      simp only [hs, perform, runMicro] at hu
      rcases candidateStep_cases s with ⟨b, hb, e⟩ | ⟨_, e⟩ <;> rw [e] at hu <;> simp at hu
      subst hu; exact .candidate b hr hs hb
    | negSettle => simp [hs, perform, runMicro] at hu; subst hu; exact .settle hr hs
    | negFallback => simp [hs, perform, runMicro] at hu; subst hu; exact .fallback hr hs

/-! What no step writes, before the world's next inputs come in. -/

theorem StepCase.env_eq {s u : State} (h : StepCase s u) : u.env = s.env := by
  cases h <;> first | simp [resetBlock, bootStep, fallbackStep] | (unfold settleStep; split <;> simp)

theorem StepCase.time_eq {s u : State} (h : StepCase s u) : u.line.time = s.line.time := by
  cases h <;> first | simp [resetBlock, bootStep, fallbackStep] | (unfold settleStep; split <;> simp)

theorem StepCase.cfg_eq {s u : State} (h : StepCase s u) : u.cfg = s.cfg := by
  cases h <;> first | simp [resetBlock, bootStep, fallbackStep] | (unfold settleStep; split <;> simp)

/-- The clock never runs back, and a step passes less than one wrap of it. -/
theorem step_time {s t : State} (h : step s = .next t) :
    s.line.time ≤ t.line.time ∧ t.line.time < s.line.time + 2 ^ 32 := by
  obtain ⟨u, hc, rfl⟩ := step_cases h
  obtain ⟨ms, a, hl⟩ := advance_line u
  have := ms.isLt
  simp only [hl, pass_time, hc.time_eq, quiet_line]
  omega

/-! Runs, step by step. -/

theorem RunsTo.succ {k : Nat} {s u t : State} (h : RunsTo k s u) (hs : step u = .next t) : RunsTo (k + 1) s t := by
  induction k generalizing s with
  | zero => cases h; simp [RunsTo, Host.Core.run, Sys2Proof.core, hs]
  | succ k ih =>
    simp only [RunsTo, Host.Core.run] at h ⊢
    cases e : Sys2Proof.core.step s with
    | next v => rw [e] at h; exact ih h
    | fault r => simp [e] at h
    | refused r => simp [e] at h

theorem RunsTo.last {k : Nat} {s t : State} (h : RunsTo (k + 1) s t) : ∃ u, RunsTo k s u ∧ step u = .next t := by
  induction k generalizing s with
  | zero =>
    refine ⟨s, rfl, ?_⟩
    simp only [RunsTo, Host.Core.run, Sys2Proof.core] at h
    cases e : step s with
    | next v => simpa [e] using h
    | fault r => simp [e] at h
    | refused r => simp [e] at h
  | succ k ih =>
    simp only [RunsTo, Host.Core.run] at h ih ⊢
    cases e : Sys2Proof.core.step s with
    | next v => rw [e] at h; exact ih h
    | fault r => simp [e] at h
    | refused r => simp [e] at h

theorem RunsTo.append {j k : Nat} {s u t : State} (h : RunsTo j s u) (h' : RunsTo k u t) : RunsTo (j + k) s t := by
  induction k generalizing t with
  | zero => cases h'; exact h
  | succ k ih =>
    obtain ⟨v, hv, hs⟩ := RunsTo.last h'
    exact RunsTo.succ (ih hv) hs

end Sys2Proof.Machine
end

