-- ==== Sys2Proof/Tests/Slice0.lean ====
section
/-! SUPPORT. Tests against the spec's own examples and vectors (30_encoding.md, 40_checksum_framing.md,
95_test_vectors.md), the well-formedness smoke, and for every obligation with hypotheses a concrete state or word that
meets them. -/

namespace Sys2Proof.Tests

open Sys2Proof.Machine

set_option maxRecDepth 20000

/-! ## Well-formedness -/

/-- The layout of 02 R43 is one the model's statements cover. -/
theorem default_layoutWf : Config.default.layoutWf := by
  simp [Config.layoutWf, Config.default]

theorem default_wf : Config.default.wf :=
  ⟨by decide, by decide, by simp [Config.default], default_layoutWf⟩

/-- 10 00 00 10 has the right checksum (40 R107), so it is no RSP.BAD. -/
theorem test_wellFormed_refuses_good_checksum : (Instr.rspBad 0x1#4 0x0#4 0x00#8 0x0010#16).wellFormed = false := by
  decide

/-- 10 01 00 10 is RSP.BAD (40 R113). -/
theorem test_wellFormed_admits_bad_checksum : (Instr.rspBad 0x1#4 0x0#4 0x01#8 0x0010#16).wellFormed = true := by
  decide

/-! ## Checksum and framing (95 sections 2.1 to 2.3) -/

theorem test_bip4_vectors :
    bip4 0x08 0x32 0x00 0x08 = 0x1#4 ∧ bip4 0xF0 0x00 0x00 0x00 = 0x0#4 ∧ bip4 0x0F 0xFF 0xFF 0xFF = 0xF#4
    ∧ bip4 0x01 0x02 0x04 0x08 = 0xF#4 ∧ bip4 0x0A 0x5A 0xA5 0x3C = 0x5#4 ∧ bip4 0x00 0x12 0x34 0x56 = 0x7#4 := by
  decide

theorem test_seal_vectors :
    wordOfPacket (sealPacket (packetOfWord 0x02030005#32)) = 0x42030005#32
    ∧ wordOfPacket (sealPacket (packetOfWord 0xF2030005#32)) = 0x42030005#32
    ∧ wordOfPacket (sealPacket (packetOfWord 0xA7123456#32)) = 0x07123456#32 := by
  decide

theorem test_encode_vectors :
    wordOfPacket (encodePacket 0 0x32 0x0008 true true) = 0x18320008#32
    ∧ wordOfPacket (encodePacket 0 0x31 0x0100 true false) = 0xB8310100#32
    ∧ wordOfPacket (encodePacket 0 0xFF 0xFFFF true true) = 0x88FFFFFF#32
    ∧ wordOfPacket (encodePacket 0 0x43 0x0000 false true) = 0x70430000#32 := by
  decide

/-! ## Decoding: a word of every row, from the spec's patterns and examples, and the words that are refused -/

theorem test_decode_host_words :
    decodeHost 0x10320000#32 = .ok (.txnRd false 0x32#8 0x0000#16)
    ∧ decodeHost 0x14FFFFFF#32 = .ok (.txnRd true 0xFF#8 0xFFFF#16)
    ∧ decodeHost 0x1C3500C1#32 = .ok (.txnWr true 0x35#8 0x00C1#16)
    ∧ decodeHost 0x20000000#32 = .ok .negotiate ∧ decodeHost 0x30000001#32 = .ok (.setverb true)
    ∧ decodeHost 0x30000000#32 = .ok (.setverb false) := by
  decide

/-- 95 section 2.7. -/
theorem test_decode_host_refusals :
    decodeHost 0x30000002#32 = .rejected .setverbBits ∧ decodeHost 0x00000000#32 = .rejected (.unassignedOp 0x0#4)
    ∧ decodeHost 0x11000000#32 = .rejected .txnReservedBits ∧ decodeHost 0x12000000#32 = .rejected .txnReservedBits
    ∧ decodeHost 0x20000001#32 = .rejected .negotiateBits ∧ decodeHost 0x2F000000#32 = .rejected .negotiateBits
    ∧ decodeHost 0x40000000#32 = .rejected (.unassignedOp 0x4#4)
    ∧ decodeHost 0xF0000000#32 = .rejected (.unassignedOp 0xF#4) := by
  decide

theorem test_decode_command_words :
    decodeCommand Config.default 0x70430000#32 = .ok (.cmdRd 0x43#8 0x0000#16)
    ∧ decodeCommand Config.default 0xB8310100#32 = .ok (.cmdWr 0x31#8 0x0100#16)
    ∧ decodeCommand Config.default 0x00430000#32 = .rejected .commandChecksum
    ∧ decodeCommand Config.default 0x42030005#32 = .rejected .commandHeader := by
  decide

/-- 95 section 2.4. -/
theorem test_decode_response_words :
    decode Config.default .response 0x10010010#32 = .ok (.rspBad 0x1#4 0x0#4 0x01#8 0x0010#16)
    ∧ decode Config.default .response 0xFFFFFFFF#32 = .ok (.rspCe true 3#2 0xFF#8 0xFFFF#16)
    ∧ decode Config.default .response 0x44000000#32 = .ok (.rspOk true 0x00#8 0x0000#16)
    ∧ decode Config.default .response 0x01320000#32 = .ok (.rspXe false 0x32#8 0x0000#16)
    ∧ decode Config.default .response 0x42030005#32 = .ok (.rspAea false 0x03#8 0x0005#16)
    ∧ decode Config.default .response 0x33000000#32 = .ok (.rspCp false 0x00#8 0x0000#16) := by
  decide

/-- A table word of every row whose word is in no earlier place (log entry 5); a wire row's CHK is computed. -/
theorem test_decodeTableWord :
    decodeTableWord 32 0x10000000 = some (.txnRd false 0 0) ∧ decodeTableWord 32 0x18000000 = some (.txnWr false 0 0)
    ∧ decodeTableWord 32 0x20000000 = some .negotiate ∧ decodeTableWord 32 0x30000000 = some (.setverb false)
    ∧ decodeTableWord 32 0x00000000 = some (.cmdRd 0 0) ∧ decodeTableWord 32 0x88000000 = some (.cmdWr 0 0)
    ∧ decodeTableWord 32 0x20010000 = some (.rspBad 0x2 0x0 0x01 0)
    ∧ decodeTableWord 32 0xCC000000 = some (.rspCe true 0 0 0) ∧ decodeTableWord 32 0x44000000 = some (.rspOk true 0 0)
    ∧ decodeTableWord 32 0x11000000 = some (.rspXe false 0 0) ∧ decodeTableWord 32 0x22000000 = some (.rspAea false 0 0)
    ∧ decodeTableWord 32 0x33000000 = some (.rspCp false 0 0) := by
  decide

/-! ## One step -/

/-- An engine in a state, with the inputs of the step. -/
def engine (st : EngState) (valid : Bool) (w : Word) (now : Nat) : State :=
  { State.reset with
    state := st
    line := { State.reset.line with time := now }
    env := { State.reset.env with inp := { rst := false, cmdValid := valid, cmdWord := w, csrSel := 0 } } }

/-- An idle engine with a command on its port. -/
def idleWith (w : Word) : State := engine .idle true w 0

/-- An engine in RX with its request sent at time 0, some bytes taken and some waiting. -/
def rxWith (taken : Idx) (waiting : List Byte) (now : Nat) : State :=
  { engine .rx false 0 now with t0 := 0, rxCnt := taken, line := { rxq := waiting, rate := 9600, time := now } }

/-- An engine in CHECK with a packet in its buffer. -/
def checkWith (o : Origin) (p : Word) : State :=
  { engine .check false 0 0 with origin := o, rxbuf := packetOfWord p, rxCnt := 4 }

/-- 41 R150: the accept step writes the latch and no outcome. -/
theorem test_txnRd_is_latched :
    (nextOf (step (idleWith 0x14310203#32))).map (fun t => (t.state, t.reqReg, t.reqVal, t.reqW, t.reqTc, t.out.done))
      = some (.tx, 0x31, 0x0203, false, true, false) := by
  decide

theorem test_txnWr_is_latched :
    (nextOf (step (idleWith 0x18310100#32))).map (fun t => (t.state, t.reqReg, t.reqVal, t.reqW, t.reqTc))
      = some (.tx, 0x31, 0x0100, true, false) := by
  decide

theorem test_negotiate_starts :
    (nextOf (step (idleWith 0x20000000#32))).map (fun t => (t.state, t.negIdx, t.accIdx, t.baudOk))
      = some (.negCfg, 0, 7, false) := by
  decide

/-- 95 section 2.7: CTRL 1 and RESULT 0x70000000. -/
theorem test_setverb_completes :
    (nextOf (step (idleWith 0x30000001#32))).map (fun t => (csrCtrl t, csrResult t, t.out.done, t.state))
      = some (0x00000001#32, 0x70000000#32, true, .idle) := by
  decide

/-- 95 section 2.7: RESULT 0x80000000. -/
theorem test_illegal_completes :
    (nextOf (step (idleWith 0x13000000#32))).map (fun t => (csrResult t, t.out.done, t.state))
      = some (0x80000000#32, true, .idle) := by
  decide

/-- 95 T20: a read sends VALUE as given. -/
theorem test_cmdRd_is_sent :
    (nextOf (step (State.reset.withFetchWord 32 0x00FFFFFF))).map (fun t => (t.out.tx, t.state))
      = some (some 0x00FFFFFF#32, .rx) := by
  decide

/-- 95 T2. -/
theorem test_cmdWr_is_sent :
    (nextOf (step (State.reset.withFetchWord 32 0xB8310100))).map (fun t => (t.out.tx, t.state))
      = some (some 0xB8310100#32, .rx) := by
  decide

/-- 95 T7: TXN_CHECKSUM, the cache not written, ENGSTAT 0x41. -/
theorem test_rspBad_host :
    (nextOf (step (checkWith .host 0x10010010#32))).map (fun t => (csrResult t, csrLastRsp t, csrEngStat t))
      = some (0x30000000#32, 0x00000000#32, 0x00000041#32) := by
  decide

/-- 95 T16: the all-ones line is CE. -/
theorem test_rspCe_host :
    (nextOf (step (checkWith .host 0xFFFFFFFF#32))).map (fun t => (csrResult t, csrLastRsp t))
      = some (0x40000000#32, 0x00000000#32) := by
  decide

/-- 95 T17: a blind spot, seen only in the echo mismatch. -/
theorem test_rspOk_host :
    (nextOf (step (checkWith .host 0x10110010#32))).map (fun t => (csrResult t, csrLastRsp t, t.out.done))
      = some (0x18110010#32, 0x80110010#32, true) := by
  decide

/-- 95 V-N4: an echo mismatch on the probe is still success, and is signalled when verbose. -/
theorem test_rspOk_probe :
    (nextOf (step { checkWith .neg 0x10010000#32 with verbose := true, baud := 4800 })).map
        (fun t => (csrBaud t, csrResult t, t.out.diag))
      = some (0x800012C0#32, 0x58010000#32, some (0x1#4, 0x0001#16)) := by
  decide

/-- 95 T3, with the echo that differs from register 0x00. -/
theorem test_rspXe_host :
    (nextOf (step { checkWith .host 0x01320000#32 with reqReg := 0x32 })).map (fun t => (csrResult t, csrLastRsp t))
      = some (0x11320000#32, 0x81320000#32) := by
  decide

/-- 95 V-N3: an XE answer fails the candidate and is cached. -/
theorem test_rspXe_probe :
    (nextOf (step (checkWith .neg 0x11000000#32))).map (fun t => (t.state, t.negIdx, csrLastRsp t, t.out.done))
      = some (.negCfg, 1, 0x81000000#32, false) := by
  decide

/-- 95 T4. -/
theorem test_rspAea_host :
    (nextOf (step { checkWith .host 0x42030005#32 with reqReg := 0x03 })).map (fun t => (csrResult t, csrLastRsp t))
      = some (0x12030005#32, 0x82030005#32) := by
  decide

/-- 95 T5. -/
theorem test_rspCp_host :
    (nextOf (step (checkWith .host 0x33000000#32))).map (fun t => (csrResult t, csrLastRsp t))
      = some (0x13000000#32, 0x83000000#32) := by
  decide

/-- 41 R141 and 95 T11: a byte is taken at elapsed 99; 95 T12: not at elapsed 100. -/
theorem test_deadline_boundary :
    (nextOf (step (rxWith 3 [0x10] 99))).map (·.state) = some .check
    ∧ (nextOf (step (rxWith 3 [0x10] 100))).map (fun t => (t.state, csrResult t, t.rxCnt))
        = some (.idle, 0x20000000#32, 3) := by
  decide

/-- 95 T23: the deadline across the wrap of the clock. -/
theorem test_deadline_across_wrap :
    (nextOf (step { rxWith 0 [] 0x100000027 with t0 := 0xFFFFFFC3#32 })).map csrResult = some 0x20000000#32
    ∧ (nextOf (step { rxWith 0 [] 0x100000026 with t0 := 0xFFFFFFC3#32 })).map (·.state) = some .rx := by
  decide

/-- 95 section 2.6: the settling wait is 50 ms. -/
theorem test_settle_boundary :
    (nextOf (step (engine .negSettle false 0 49))).map (·.state) = some .negSettle
    ∧ (nextOf (step (engine .negSettle false 0 50))).map (·.state) = some .tx := by
  decide

/-- 95 V-N2: RESULT 0x60000000, and the transport at 9600. -/
theorem test_fallback :
    (nextOf (step (engine .negFallback false 0 0))).map (fun t => (csrResult t, csrBaud t, t.out.cfg))
      = some (0x60000000#32, 0x07002580#32, some 9600) := by
  decide

/-- 30 R84 and R85. -/
theorem test_assembler_lines :
    assembleLine Config.default "txn.wr 0x31, 0x0100   ; write".toList = some [.issue 0x18310100#32]
    ∧ assembleLine Config.default "txn.rd.mon 3".toList = some [.issue 0x14030000#32]
    ∧ assembleLine Config.default "geterr".toList = some [.issue 0x10000000#32]
    ∧ assembleLine Config.default "txn.rd 256".toList = none := by
  decide

/-! ## Witnesses: what meets the hypotheses of the obligations -/

theorem witness_Bip4FoldsTheCoveredBits : 0 < 28 ∧ 27 < 28 := by decide

theorem witness_DecodeChecksThenParses :
    (0x10#8).extractLsb' 4 4 ≠ bip4 0x10 0x01 0x00 0x10 ∧ (0x10#8).extractLsb' 4 4 = bip4 0x10 0x00 0x00 0x10 := by
  decide

theorem witness_ErrorDetectedExactlyWhenFoldDiffers :
    (decodePacket Config.default (packetOfWord 0x10000010#32)).isSome = true ∧ 0 < 32 ∧ 31 < 32 := by
  decide

/-- One packet for each kind; each but the first has the right checksum. -/
theorem witness_PacketKindByMaskAndChecksum :
    highNibble (packetOfWord 0x10010010#32).b0 ≠ packetChecksum (packetOfWord 0x10010010#32)
    ∧ (∀ w ∈ [0x88000000#32, 0x10000010#32, 0x01320000#32, 0x42030005#32, 0x33000000#32],
        highNibble (packetOfWord w).b0 = packetChecksum (packetOfWord w))
    ∧ 0x88000000#32 &&& 0x08000000#32 = 0x08000000#32 ∧ 0x10000010#32 &&& 0x0B000000#32 = 0x00000000#32
    ∧ 0x01320000#32 &&& 0x0B000000#32 = 0x01000000#32 ∧ 0x42030005#32 &&& 0x0B000000#32 = 0x02000000#32
    ∧ 0x33000000#32 &&& 0x0B000000#32 = 0x03000000#32 := by
  refine ⟨by decide, ?_, by decide⟩
  simp only [List.forall_mem_cons, List.not_mem_nil, false_imp_iff, implies_true, and_true]
  decide

/-- A word for each clause, at the first and last values of its field. -/
theorem witness_HostWordByOperationField :
    (opField 0x10000000#32 = 0x1#4 ∧ (0x10000000#32).extractLsb' 24 2 = 0#2 ∧ (0x10000000#32).getLsbD 27 = false)
    ∧ (opField 0x1CFFFFFF#32 = 0x1#4 ∧ (0x1CFFFFFF#32).extractLsb' 24 2 = 0#2 ∧ (0x1CFFFFFF#32).getLsbD 27 = true)
    ∧ (opField 0x13000000#32 = 0x1#4 ∧ (0x13000000#32).extractLsb' 24 2 ≠ 0#2)
    ∧ (opField 0x20000000#32 = 0x2#4 ∧ (0x20000000#32).extractLsb' 0 28 = 0#28)
    ∧ (opField 0x28000000#32 = 0x2#4 ∧ (0x28000000#32).extractLsb' 0 28 ≠ 0#28)
    ∧ (opField 0x30000001#32 = 0x3#4 ∧ (0x30000001#32).extractLsb' 1 27 = 0#27)
    ∧ (opField 0x30000002#32 = 0x3#4 ∧ (0x30000002#32).extractLsb' 1 27 ≠ 0#27)
    ∧ (∀ w ∈ [0x00000000#32, 0x40000000#32, 0xF0000000#32],
        opField w ≠ 0x1#4 ∧ opField w ≠ 0x2#4 ∧ opField w ≠ 0x3#4) := by
  simp only [List.forall_mem_cons, List.not_mem_nil, false_imp_iff, implies_true, and_true]
  decide

theorem witness_DecodeOfEncodeIsTheInstruction :
    Config.default.layoutWf ∧ (Instr.rspBad 0x1#4 0x0#4 0x01#8 0x0010#16).wellFormed = true
    ∧ { Config.default with ceBit := 24, statusLsb := 26 }.layoutWf ∧ (Instr.rspCe true 3#2 0xFF#8 0xFFFF#16).wellFormed = true :=
  ⟨default_layoutWf, by decide, by simp [Config.layoutWf], by decide⟩

theorem witness_EncodeOfDecodeIsTheWord :
    Config.default.layoutWf ∧ decode Config.default .command 0xB8310100#32 = .ok (.cmdWr 0x31#8 0x0100#16) :=
  ⟨default_layoutWf, by decide⟩

theorem witness_OperandsAreCopiedIntoThePacket :
    decodeHost 0x10FF8001#32 = .ok (.txnRd false 0xFF 0x8001) ∧ decodeHost 0x18FF8001#32 = .ok (.txnWr false 0xFF 0x8001)
    ∧ decodeHost 0x30000001#32 = .ok (.setverb true) := by
  decide

theorem witness_AssembledWordsAreTheirCommands : (255 < 256 ∧ 65535 < 65536) ∧ (256 ≤ 256 ∨ 65536 ≤ 0) ∧ 2 ≤ 2 := by decide

theorem witness_PseudoInstructionsExpand : 255 < 256 ∧ 4294967295 < 2 ^ 32 ∧ 1 < 2 := by decide

theorem witness_GoodResponseEndsHostTransaction : State.reset.origin = .host := rfl

theorem witness_GoodResponseDecidesTheCandidate : (checkWith .neg 0x10000010#32).origin = .neg := rfl

theorem witness_ProbeOutcomeAcceptsOrMovesOn :
    (checkWith .neg 0).origin = .neg
    ∧ ({ kind := .txnOk, status := 0, reg := 0, data := 0, echoMm := false } : Result).kind = .txnOk
    ∧ ¬ ((Result.plain .txnTimeout).kind = .txnOk ∧ (Result.plain .txnTimeout).status = 0#2)
    ∧ (checkWith .neg 0).negIdx.toNat + 1 < (checkWith .neg 0).cfg.nBaud
    ∧ { checkWith .neg 0 with negIdx := 5 }.cfg.nBaud ≤ { checkWith .neg 0 with negIdx := 5 }.negIdx.toNat + 1 := by
  decide

theorem witness_StepRunsTheDecodedInstruction :
    ((idleWith 0x20000000#32).env.inp.rst = false ∧ (idleWith 0x20000000#32).state = .idle
      ∧ (idleWith 0x20000000#32).env.inp.cmdValid = true ∧ decode Config.default .host 0x20000000#32 = .ok .negotiate)
    ∧ ((engine .tx false 0 0).state = .tx
      ∧ decode Config.default .command (wordOfPacket (encodePacket 0 0x00 0x0000 false true)) = .ok (.cmdRd 0x00 0x0000))
    ∧ ((checkWith .host 0x10000010#32).state = .check
      ∧ decode Config.default .response (wordOfPacket (checkWith .host 0x10000010#32).rxbuf)
          = .ok (.rspOk false 0x00 0x0010)) := by
  decide

theorem witness_IllegalWordCompletesAtOnce :
    (idleWith 0xF0000000#32).env.inp.rst = false ∧ (idleWith 0xF0000000#32).state = .idle
    ∧ (idleWith 0xF0000000#32).env.inp.cmdValid = true ∧ 0xF0000000#32 &&& 0xFB000000#32 ≠ 0x10000000#32
    ∧ 0xF0000000#32 &&& 0xFB000000#32 ≠ 0x18000000#32 ∧ 0xF0000000#32 &&& 0xFFFFFFFF#32 ≠ 0x20000000#32
    ∧ 0xF0000000#32 &&& 0xFFFFFFFE#32 ≠ 0x30000000#32 := by
  decide

theorem witness_CommandPortIgnoredOutsideIdle :
    (rxWith 0 [] 0).state ≠ .idle ∧ (idleWith 0).state = .idle
    ∧ { State.reset with env := { State.reset.env with inp := { State.reset.env.inp with rst := true } } }.env.inp.rst = true := by
  decide

theorem witness_WaitingStepsChangeNothing :
    ((engine .idle false 0 0).state = .idle ∧ (engine .idle false 0 0).env.inp.cmdValid = false)
    ∧ ((rxWith 0 [] 99).state = .rx ∧ (rxWith 0 [] 99).line.rxq = []
      ∧ nowMs (rxWith 0 [] 99) - (rxWith 0 [] 99).t0 < 100#32)
    ∧ ((engine .negSettle false 0 49).state = .negSettle
      ∧ nowMs (engine .negSettle false 0 49) - (engine .negSettle false 0 49).tCfg < 50#32) := by
  decide

theorem witness_ResetStepLoadsResetValues :
    ∃ s : State, s.env.inp.rst = true ∧ s.state = .rx :=
  ⟨{ rxWith 2 [] 0 with env := { State.reset.env with inp := { State.reset.env.inp with rst := true } } }, rfl, rfl⟩

theorem witness_RstStepConfiguresResetRate : State.reset.env.inp.rst = false ∧ State.reset.state = .rst := by decide

theorem witness_RxStepTakesOneByte :
    (∀ k ∈ [0#3, 3#3], (rxWith k [0x10] 99).env.inp.rst = false ∧ (rxWith k [0x10] 99).state = .rx
      ∧ (rxWith k [0x10] 99).line.rxq = [0x10#8] ∧ (rxWith k [0x10] 99).rxCnt.toNat ≤ 3)
    ∧ nowMs (rxWith 3 [0x10] 99) - (rxWith 3 [0x10] 99).t0 < 100#32 := by
  decide

theorem witness_RxStepTimesOutAtDeadline :
    (rxWith 3 [0x10] 100).env.inp.rst = false ∧ (rxWith 3 [0x10] 100).state = .rx
    ∧ (rxWith 3 [0x10] 100).cfg.deadlineInclusive = false
    ∧ 100#32 ≤ nowMs (rxWith 3 [0x10] 100) - (rxWith 3 [0x10] 100).t0
    ∧ (rxWith 3 [0x10] 100).origin = .host ∧ { rxWith 3 [0x10] 100 with origin := .neg }.origin = .neg := by
  decide

theorem witness_NegCfgConfiguresCandidate :
    (engine .negCfg false 0 0).env.inp.rst = false ∧ (engine .negCfg false 0 0).state = .negCfg
    ∧ (engine .negCfg false 0 0).cfg.baudList[(engine .negCfg false 0 0).negIdx.toNat]? = some 4800#24 := by
  decide

theorem witness_SettledProbeAndFallback :
    ((engine .negSettle false 0 50).env.inp.rst = false ∧ (engine .negSettle false 0 50).state = .negSettle
      ∧ (engine .negSettle false 0 50).cfg.tSettle ≤ nowMs (engine .negSettle false 0 50)
          - (engine .negSettle false 0 50).tCfg)
    ∧ (engine .negFallback false 0 0).env.inp.rst = false ∧ (engine .negFallback false 0 0).state = .negFallback := by
  decide

theorem witness_AllZeroLinePassesTheProbe :
    (checkWith .neg 0).env.inp.rst = false ∧ (checkWith .neg 0).state = .check ∧ (checkWith .neg 0).origin = .neg
    ∧ (checkWith .neg 0).cfg.layoutWf ∧ (checkWith .neg 0).rxbuf = { b0 := 0, b1 := 0, b2 := 0, b3 := 0 }
    ∧ (checkWith .neg 0).reqReg = 0x00#8 := by
  decide

theorem witness_CheckStepReportsThePacketKind :
    ((checkWith .host 0x10010010#32).state = .check ∧ (checkWith .host 0x10010010#32).origin = .host
      ∧ Config.default.ceBit = 27 ∧ Config.default.statusLsb = 24
      ∧ highNibble (checkWith .host 0x10010010#32).rxbuf.b0 ≠ packetChecksum (checkWith .host 0x10010010#32).rxbuf)
    ∧ highNibble (checkWith .host 0x33000000#32).rxbuf.b0 = packetChecksum (checkWith .host 0x33000000#32).rxbuf
    ∧ (checkWith .host 0x33000000#32).rxbuf.b0.getLsbD 3 = false
    ∧ (checkWith .host 0x33000000#32).rxbuf.b0.extractLsb' 0 2 = 3#2 := by
  decide

theorem witness_AtMostOneTransportEvent : ∃ t, step State.reset = .next t ∧ transportEvents t.out = 1 :=
  ⟨_, rfl, by decide⟩

theorem witness_DoneExactlyWhenOutcomeIsWritten :
    (∃ t, step (idleWith 0x30000001#32) = .next t ∧ t.out.done = true)
    ∧ (∃ t, step (idleWith 0x10000000#32) = .next t ∧ t.out.done = false)
    ∧ ∃ t, step (checkWith .host 0) = .next t ∧ t.state = .idle ∧ (checkWith .host 0).state ≠ .idle :=
  ⟨⟨_, rfl, by decide⟩, ⟨_, rfl, by decide⟩, ⟨_, rfl, by decide⟩⟩

theorem witness_VerbosityChangesOnlyDiagnostics :
    (hideVerbosity { idleWith 0 with verbose := true, out := { Outputs.quiet with diag := some (1, 0) } }
      = hideVerbosity (idleWith 0)) ∧
    ∃ t, step (checkWith .host 0x10010000#32) = .next t ∧ (checkWith .host 0x10010000#32).verbose = false :=
  ⟨rfl, _, rfl, by decide⟩

theorem witness_DiagnosticExactlyOnEchoMismatch :
    ∃ t, step { checkWith .host 0x10010000#32 with verbose := true } = .next t
      ∧ t.out.diag = some (0x1#4, 0x0001#16) :=
  ⟨_, rfl, by decide⟩

theorem witness_CacheWrittenOnlyByDecode :
    (∃ t, step (checkWith .host 0x10000010#32) = .next t ∧ t.last.valid = true)
    ∧ (∃ t, step (checkWith .host 0x10010010#32) = .next t
        ∧ decodePacket Config.default (packetOfWord 0x10010010#32) = none)
    ∧ ∃ t, step { idleWith 0 with last := { Last.empty with valid := true } } = .next t ∧ t.last.valid = true :=
  ⟨⟨_, rfl, by decide⟩, ⟨_, rfl, by decide⟩, ⟨_, rfl, by decide⟩⟩

theorem witness_TimestampsAreTheirStepsSamples :
    (∃ t, step (engine .tx false 0 7) = .next t ∧ t.t0 = 7#32)
    ∧ ∃ t, step (engine .negCfg false 0 7) = .next t ∧ t.tCfg = 7#32 :=
  ⟨⟨_, rfl, by decide⟩, ⟨_, rfl, by decide⟩⟩

theorem witness_VerbosityWrittenOnlyBySetverb :
    ∃ t, step (idleWith 0x30000001#32) = .next t ∧ (idleWith 0x30000001#32).env.inp.rst = false ∧ t.verbose = true :=
  ⟨_, rfl, by decide⟩

theorem witness_RateFollowsConfigure :
    (∃ t, step (engine .negCfg false 0 0) = .next t ∧ t.out.cfg = some 4800#24)
    ∧ ∃ t, step (idleWith 0) = .next t ∧ t.out.cfg = none :=
  ⟨⟨_, rfl, by decide⟩, ⟨_, rfl, by decide⟩⟩

theorem witness_PacketSentOncePerTransaction :
    (∃ t, step (engine .tx false 0 0) = .next t ∧ (engine .tx false 0 0).env.inp.rst = false)
    ∧ (∃ t, step (idleWith 0x10000000#32) = .next t ∧ t.state = .tx)
    ∧ ∃ t, step (checkWith .host 0) = .next t ∧ (checkWith .host 0).origin = .host :=
  ⟨⟨_, rfl, by decide⟩, ⟨_, rfl, by decide⟩, ⟨_, rfl, by decide⟩⟩

theorem witness_CandidatesAreTriedInOrder :
    (∃ t, step (checkWith .neg 0x11000000#32) = .next t ∧ t.state = .negCfg)
    ∧ (∃ t, step (idleWith 0x20000000#32) = .next t ∧ t.state = .negCfg)
    ∧ ∃ t, step (checkWith .neg 0) = .next t ∧ t.accIdx ≠ (checkWith .neg 0).accIdx :=
  ⟨⟨_, rfl, by decide⟩, ⟨_, rfl, by decide⟩, ⟨_, rfl, by decide⟩⟩

/-- The world of the whole-command witnesses: no reset, no command, the milliseconds since the last step and the bytes
that come. -/
def worldStep (ms : Word) (bytes : List Byte) : EnvStep :=
  { inp := { rst := false, cmdValid := false, cmdWord := 0, csrSel := 0 }, ms := ms, arrivals := bytes }

/-- An idle engine with a command, bytes already waiting and a script of the first `n` steps of a world. -/
def commandRun (w : Word) (waiting : List Byte) (world : Nat → EnvStep) (n : Nat) : State :=
  { idleWith w with
    line := { rxq := waiting, rate := 9600, time := 0 }
    env := { (idleWith w).env with script := (List.range' 1 n).map world } }

/-- One byte of an answer every other step. -/
def slowDevice (k : Nat) : EnvStep :=
  worldStep 1 (if k = 2 then [0x30] else if k = 4 then [0x31] else if k = 6 then [0x01] else if k = 8 then [0x00] else [])

/-- The bytes of an answer in the first four RX steps. -/
def promptDevice (k : Nat) : EnvStep :=
  worldStep 1 (if k = 2 then [0x30] else if k = 3 then [0x31] else if k = 4 then [0x01] else if k = 5 then [0x00] else [])

/-- One byte of an answer, then silence; the deadline of 100 ms is reached in step 6. -/
def brokenDevice (k : Nat) : EnvStep := worldStep (if k = 6 then 97 else 1) (if k = 3 then [0x10] else [])

theorem witness_DeadlinesAndCandidateList :
    ∃ s u : State, s.cfg.deadlineInclusive = false ∧ s.env.inp.rst = false ∧ s.state = .idle
      ∧ s.env.inp.cmdValid = true ∧ s.env.inp.cmdWord = encode s.cfg (.txnRd true 0x00 0x0000)
      ∧ (∀ i v, 1 ≤ i → i ≤ 1 → RunsTo i s v → v.env.inp.rst = false ∧ v.state ≠ .idle)
      ∧ RunsTo (1 + 1) s u ∧ u.env.inp.rst = false ∧ u.state = .rx := by
  refine ⟨commandRun 0x14000000 [] slowDevice 2, _, rfl, rfl, rfl, rfl, by decide, ?_, rfl, rfl, rfl⟩
  intro i v h1 h2 hv
  obtain rfl : i = 1 := by omega
  cases hv
  exact ⟨rfl, by decide⟩

/-- One millisecond after the deadline, across the wrap of the 32-bit count. -/
theorem witness_ElapsedTimeIsModular :
    ∃ t, step { rxWith 0 [] 0x100000028 with t0 := 0xFFFFFFC3 } = .next t ∧ 0xFFFFFFC3 ≤ 0x100000028
      ∧ (0xFFFFFFC3#32 : Word) = BitVec.ofNat 32 0xFFFFFFC3 ∧ 0x100000028 - 0xFFFFFFC3 < 2 ^ 32
      ∧ ¬ (t.state = .rx ∨ t.state = .check) :=
  ⟨_, rfl, by norm_num, rfl, by norm_num, by decide⟩

theorem witness_TransactionCompletesInSevenSteps :
    (∃ (s : State) (p : Packet), s.env.inp.rst = false ∧ s.state = .idle ∧ s.env.inp.cmdValid = true
      ∧ s.env.inp.cmdWord = encode s.cfg (.txnWr false 0x31 0x0100)
      ∧ (s.line.rxq ++ arrivedBy promptDevice 5).take 4 = [p.b0, p.b1, p.b2, p.b3]
      ∧ (∀ k, 2 ≤ k → k ≤ 5 → k - 1 ≤ (s.line.rxq ++ arrivedBy promptDevice k).length)
      ∧ s.env.script = (List.range' 1 6).map promptDevice ++ []
      ∧ (∀ k, 1 ≤ k → k ≤ 6 → (promptDevice k).inp.rst = false)
      ∧ ∀ k, 2 ≤ k → k ≤ 5 → waited promptDevice 1 k < s.cfg.tGen)
    ∧ ∃ (s : State) (p : Packet), s.state = .idle
      ∧ (s.line.rxq ++ arrivedBy slowDevice 8).take 4 = [p.b0, p.b1, p.b2, p.b3]
      ∧ s.env.script = (List.range' 1 (8 + 4)).map slowDevice ++ []
      ∧ (∀ k, 1 ≤ k → k ≤ 8 + 4 → (slowDevice k).inp.rst = false)
      ∧ ∀ k, 2 ≤ k → k ≤ 8 + 3 → waited slowDevice 1 k < s.cfg.tGen :=
  ⟨⟨commandRun 0x18310100 [] promptDevice 6, packetOfWord 0x30310100, rfl, rfl, rfl, by decide, by decide,
      by intro k h1 h2; interval_cases k <;> decide, (List.append_nil _).symm, fun _ _ _ => rfl,
      by intro k h1 h2; interval_cases k <;> decide⟩,
    ⟨commandRun 0x18310100 [] slowDevice 12, packetOfWord 0x30310100, rfl, by decide, (List.append_nil _).symm,
      fun _ _ _ => rfl, by intro k h1 h2; interval_cases k <;> decide⟩⟩

theorem witness_PartialResponseTimesOut :
    ∃ s : State, s.env.inp.rst = false ∧ s.state = .idle ∧ s.env.inp.cmdValid = true
      ∧ s.env.inp.cmdWord = encode s.cfg (.txnRd false 0x00 0x0000) ∧ 2 ≤ 6
      ∧ (s.line.rxq ++ arrivedBy brokenDevice (6 - 1)).length ≤ 3
      ∧ s.env.script = (List.range' 1 6).map brokenDevice ++ []
      ∧ (∀ k, 1 ≤ k → k ≤ 6 → (brokenDevice k).inp.rst = false)
      ∧ (∀ k, 2 ≤ k → k < 6 → waited brokenDevice 1 k < s.cfg.tGen) ∧ s.cfg.tGen ≤ waited brokenDevice 1 6
      ∧ s.cfg.deadlineInclusive = false :=
  ⟨commandRun 0x10000000 [0x00] brokenDevice 6, rfl, rfl, rfl, by decide, by decide, by decide,
    (List.append_nil _).symm, fun _ _ _ => rfl, by intro k h1 h2; interval_cases k <;> decide, by decide, rfl⟩

/-- The last clause of the same: the bytes were all there, and were all taken. -/
theorem witness_PartialResponseTimesOut_waiting :
    arrivedBy (fun _ => worldStep 50 []) 4 = [] ∧ ([0x10#8, 0x00#8] : List Byte).length + 2 ≤ 4 := by
  decide

theorem witness_SilentDeviceFailsNegotiation :
    ∃ (s : State) (world : Nat → EnvStep), s.cfg.wf ∧ s.env.inp.rst = false ∧ s.state = .idle
      ∧ s.env.inp.cmdValid = true ∧ s.env.inp.cmdWord = 0x20000000#32 ∧ s.line.rxq = []
      ∧ s.env.script = (List.range' 1 (4 * s.cfg.nBaud + 1)).map world ++ []
      ∧ (∀ k, 1 ≤ k → k ≤ 4 * s.cfg.nBaud + 1 → (world k).inp.rst = false ∧ (world k).arrivals = [])
      ∧ ∀ j, j < s.cfg.nBaud → s.cfg.tSettle ≤ waited world (4 * j + 1) (4 * j + 2)
          ∧ s.cfg.tGen ≤ waited world (4 * j + 3) (4 * j + 4) :=
  ⟨commandRun 0x20000000 [] (fun _ => worldStep 100 []) 25, fun _ => worldStep 100 [], default_wf, rfl, rfl, rfl, rfl,
    rfl, (List.append_nil _).symm, fun _ _ _ => ⟨rfl, rfl⟩, by decide⟩

/-- The device of 95 V-N1: it answers the third candidate, 19200, with 10 00 00 10, in step 12. -/
def thirdRateDevice (k : Nat) : EnvStep :=
  worldStep (if k ≤ 11 then 100 else 1) (if k = 12 then [0x10, 0x00, 0x00, 0x10] else [])

theorem witness_FirstAnsweringCandidateWins :
    ∃ (s : State) (p : Packet) (r : Response), s.cfg.wf ∧ s.env.inp.rst = false
      ∧ s.state = .idle ∧ s.env.inp.cmdValid = true ∧ s.env.inp.cmdWord = 0x20000000#32 ∧ s.line.rxq = []
      ∧ 2 < s.cfg.nBaud ∧ decodePacket s.cfg p = some r ∧ r.ce = false ∧ r.status = 0#2
      ∧ s.env.script = (List.range' 1 16).map thirdRateDevice ++ []
      ∧ (∀ k, 1 ≤ k → k ≤ 16 → (thirdRateDevice k).inp.rst = false
          ∧ (thirdRateDevice k).arrivals = (if k = 12 then [p.b0, p.b1, p.b2, p.b3] else []))
      ∧ (∀ i, i ≤ 2 → s.cfg.tSettle ≤ waited thirdRateDevice (4 * i + 1) (4 * i + 2))
      ∧ (∀ i, i < 2 → s.cfg.tGen ≤ waited thirdRateDevice (4 * i + 3) (4 * i + 4))
      ∧ ∀ k, 12 ≤ k → k ≤ 15 → waited thirdRateDevice 11 k < s.cfg.tGen :=
  ⟨commandRun 0x20000000 [] thirdRateDevice 16, packetOfWord 0x10000010,
    { ce := false, rsv := false, status := 0, reg := 0x00, data := 0x0010 }, default_wf, rfl, rfl, rfl, rfl, rfl,
    by decide, by decide, rfl, rfl, (List.append_nil _).symm, fun _ _ _ => ⟨rfl, rfl⟩,
    by intro i hi; interval_cases i <;> decide, by intro i hi; interval_cases i <;> decide,
    by intro k h1 h2; interval_cases k <;> decide⟩

/-- A state that meets the invariant with a negotiation under way: TX of a probe at 4800. -/
def probingState : State :=
  { engine .tx false 0 0 with origin := .neg, baud := 4800, line := { rxq := [], rate := 4800, time := 0 } }

theorem probingState_meets_StateInv : StateInv probingState where
  wf := default_wf
  countLeFour := by decide
  countInRx := by decide
  countInCheck := by decide
  indexInList := by decide
  accepted := by decide
  noneAccepted := by decide
  resetRate := by decide
  rate := by decide
  negotiatingNone := by decide
  candidateRate := by decide
  probeIsNop := by decide
  failedRecordsNothing := by decide
  acceptedStatus := by decide
  emptyCache := by decide
  sendInPast := by decide
  configureInPast := by decide

theorem witness_EveryStepKeepsInvariant : StateInv probingState ∧ ∃ t, step probingState = .next t :=
  ⟨probingState_meets_StateInv, ⟨_, rfl⟩⟩

theorem witness_NoStepStopsUnderInvariant : StateInv probingState := probingState_meets_StateInv

theorem witness_TransportKeepsItsDuties :
    StateInv probingState ∧ (∃ t, step probingState = .next t ∧ t.out.rxPop = false)
    ∧ (∃ t, step (rxWith 0 [0x10] 5) = .next t ∧ t.out.rxPop = true)
    ∧ ∃ t, step { rxWith 0 [] 0xFFFFFFFF with
          env := { (rxWith 0 [] 0).env with script := [worldStep 1 []] }, t0 := 0xFFFFFFFF } = .next t
        ∧ nowMs t < 0xFFFFFFFF#32 :=
  ⟨probingState_meets_StateInv, ⟨_, rfl, rfl⟩, ⟨_, rfl, rfl⟩, ⟨_, rfl, by decide⟩⟩

end Sys2Proof.Tests
end

section
/-! Proofs of the statements about the timestamps and the verbosity flag (10_state.md, rules R25 and R29): first what
the shared operations leave of these registers, then which steps write them, by the cases of a step. -/

namespace Sys2Proof.Machine

/-! ## What the shared operations leave -/

@[simp] theorem complete_verbose (o : Result) (s : State) : (complete o s).verbose = s.verbose := by
  rcases complete_cases o s with ⟨_, e⟩ | ⟨_, _, e⟩ | ⟨_, _, _, e⟩ | ⟨_, _, _, e⟩ <;> simp [e]

@[simp] theorem acceptResponse_verbose (st : Status) (r : Byte) (d : Half) (s : State) :
    (acceptResponse st r d s).verbose = s.verbose := by
  simp [acceptResponse]

@[simp] theorem bootStep_t0 (s : State) : (bootStep s).t0 = s.t0 := rfl
@[simp] theorem bootStep_tCfg (s : State) : (bootStep s).tCfg = s.tCfg := rfl
@[simp] theorem bootStep_verbose (s : State) : (bootStep s).verbose = s.verbose := rfl

@[simp] theorem fallbackStep_t0 (s : State) : (fallbackStep s).t0 = s.t0 := rfl
@[simp] theorem fallbackStep_tCfg (s : State) : (fallbackStep s).tCfg = s.tCfg := rfl
@[simp] theorem fallbackStep_verbose (s : State) : (fallbackStep s).verbose = s.verbose := rfl

@[simp] theorem settleStep_t0 (s : State) : (settleStep s).t0 = s.t0 := by unfold settleStep; split <;> rfl
@[simp] theorem settleStep_tCfg (s : State) : (settleStep s).tCfg = s.tCfg := by unfold settleStep; split <;> rfl
@[simp] theorem settleStep_verbose (s : State) : (settleStep s).verbose = s.verbose := by
  unfold settleStep; split <;> rfl

/-! ## The rows of the host words exclude one another -/

/-- Two rows that fix a common bit differently select no common word. -/
theorem selects_eq_false_of_conflict {r r' : Row} {w : Word} (hconflict : r.pattern &&& r'.mask ≠ r'.pattern &&& r.mask)
    (hr : r.selects w = true) : r'.selects w = false := by
  refine Bool.eq_false_iff.mpr fun hr' => hconflict ?_
  rw [selects_iff] at hr hr'
  calc r.pattern &&& r'.mask = w &&& r.mask &&& r'.mask := by rw [hr]
    _ = w &&& r'.mask &&& r.mask := by rw [BitVec.and_assoc, BitVec.and_comm r.mask, BitVec.and_assoc]
    _ = r'.pattern &&& r.mask := by rw [hr']

/-- A TXN word, read or write, is no SETVERB word. -/
theorem rowSetverb_selects_eq_false_of_txn {w : Word} (wr : Bool)
    (h : (if wr then rowTxnWr else rowTxnRd).selects w = true) : rowSetverb.selects w = false :=
  selects_eq_false_of_conflict (by cases wr <;> decide) h

/-- The NEGOTIATE word is no SETVERB word. -/
theorem rowSetverb_selects_eq_false_of_negotiate {w : Word} (h : rowNegotiate.selects w = true) :
    rowSetverb.selects w = false :=
  selects_eq_false_of_conflict (by decide) h

/-- A word the host decoder rejects is no SETVERB word. -/
theorem rowSetverb_selects_eq_false_of_rejected {w : Word} {e : DecodeError} (h : decodeHost w = .rejected e) :
    rowSetverb.selects w = false := by
  refine Bool.eq_false_iff.mpr fun hsel => ?_
  unfold decodeHost at h
  rw [if_pos hsel] at h
  split_ifs at h

/-! ## Which steps write the registers, outside reset -/

/-- Only the TX step writes the send time, with its sample (rule R25). -/
theorem StepCase.t0_eq {s u : State} (h : StepCase s u) (hrst : s.env.inp.rst = false) :
    u.t0 = if s.state = .tx then nowMs s else s.t0 := by
  cases h
  case reset hr => simp [hrst] at hr
  case send _ hs => simp [hs]
  all_goals simp [*]

/-- Only the NEG_CFG step writes the configure time, with its sample (rule R25). -/
theorem StepCase.tCfg_eq {s u : State} (h : StepCase s u) (hrst : s.env.inp.rst = false) :
    u.tCfg = if s.state = .negCfg then nowMs s else s.tCfg := by
  cases h
  case reset hr => simp [hrst] at hr
  case candidate hs _ => simp [hs]
  all_goals simp [*]

/-- Only the step that accepts a SETVERB word writes the verbosity flag (rule R29). -/
theorem StepCase.verbose_eq {s u : State} (h : StepCase s u) (hrst : s.env.inp.rst = false) :
    u.verbose = if s.state = .idle ∧ s.env.inp.cmdValid = true ∧ rowSetverb.selects s.env.inp.cmdWord = true
      then vField s.env.inp.cmdWord else s.verbose := by
  cases h
  case reset hr => simp [hrst] at hr
  case setverb hs hv hw => rw [if_pos ⟨hs, hv, hw⟩]; rfl
  case txn wr _ _ _ hw => simp [rowSetverb_selects_eq_false_of_txn wr hw, -selects_iff]
  case negotiate hw => simp [rowSetverb_selects_eq_false_of_negotiate hw, -selects_iff]
  case illegal hw => simp [rowSetverb_selects_eq_false_of_rejected hw, -selects_iff]
  all_goals simp [*]

/-- Settles O48: each timestamp by the cases of a step. -/
theorem timestampsAreTheirStepsSamples : Obligations.TimestampsAreTheirStepsSamples := by
  intro s t h hrst
  obtain ⟨u, hc, rfl⟩ := step_cases h
  exact ⟨(advance_t0 u).trans (hc.t0_eq hrst), (advance_tCfg u).trans (hc.tCfg_eq hrst)⟩

/-- Settles O49: by the cases of a step; no other host word is a SETVERB word. -/
theorem verbosityWrittenOnlyBySetverb : Obligations.VerbosityWrittenOnlyBySetverb := by
  intro s t h hrst
  obtain ⟨u, hc, rfl⟩ := step_cases h
  simpa [rowSetverb, vField] using (advance_verbose u).trans (hc.verbose_eq hrst)

end Sys2Proof.Machine
end

section
/-! Proofs of the statements about the bytes and fields of packets (20_memory.md, rules R53, R54, R107 and R108): where
the fields of the header byte stand in a packet's word, ENCODE as SEAL, and the two answers of DECODE. -/

namespace Sys2Proof.Machine

/-! ## The header byte in a packet's word -/

/-- A slice of a slice is one slice, the offsets added. -/
theorem extractLsb'_extractLsb'_add {n i len j len' : Nat} (x : BitVec n) (h : j + len' ≤ len) :
    (x.extractLsb' i len).extractLsb' j len' = x.extractLsb' (i + j) len' := by
  refine BitVec.eq_of_getLsbD_eq fun k hk => ?_
  have hin : j + k < len := by omega
  simp [hin, hk, Nat.add_assoc]

/-- CHK, bits 31:28, is the upper nibble of byte 0. -/
theorem extractLsb'_28_4_wordOfPacket (p : Packet) : (wordOfPacket p).extractLsb' 28 4 = highNibble p.b0 := by
  conv_rhs => rw [← packetOfWord_wordOfPacket p]
  simp [highNibble, packetOfWord, extractLsb'_extractLsb'_add]

/-- Bits 26:24 are the three low bits of byte 0's lower nibble. -/
theorem extractLsb'_24_3_wordOfPacket (p : Packet) :
    (wordOfPacket p).extractLsb' 24 3 = (lowNibble p.b0).extractLsb' 0 3 := by
  conv_rhs => rw [← packetOfWord_wordOfPacket p]
  simp [lowNibble, packetOfWord, extractLsb'_extractLsb'_add]

/-- Bit 27 is the top bit of byte 0's lower nibble. -/
theorem getLsbD_27_wordOfPacket (p : Packet) : (wordOfPacket p).getLsbD 27 = (lowNibble p.b0).getLsbD 3 := by
  conv_rhs => rw [← packetOfWord_wordOfPacket p]
  simp [lowNibble, packetOfWord]

/-! ## ENCODE -/

/-- ENCODE is SEAL of the packet whose header holds W and the three low bits (rule R103); no bit of the marker is
left. -/
theorem encodePacket_eq_sealPacket (low : BitVec 3) (reg : Byte) (value : Half) (w lr : Bool) :
    encodePacket low reg value w lr
      = sealPacket { b0 := 0#4 ++ (BitVec.ofBool w ++ low), b1 := reg, b2 := value.extractLsb' 8 8,
                     b3 := value.extractLsb' 0 8 } := by
  have hlow : lowNibble ((BitVec.ofBool lr).setWidth 8 <<< 7 ||| (BitVec.ofBool w).setWidth 8 <<< 3 ||| low.setWidth 8)
      = BitVec.ofBool w ++ low := by
    refine BitVec.eq_of_getLsbD_eq fun k hk => ?_
    simp only [lowNibble, BitVec.getLsbD_append, BitVec.getLsbD_extractLsb']
    interval_cases k <;> simp
  have hlow' : lowNibble (0#4 ++ (BitVec.ofBool w ++ low)) = BitVec.ofBool w ++ low := lowNibble_append _ _
  have hjoin (c n : Nibble) : c.setWidth 8 <<< 4 ||| n.setWidth 8 = c ++ n := by
    rw [← BitVec.setWidth_append_eq_shiftLeft_setWidth_or, BitVec.setWidth_eq]
  simp only [encodePacket, sealPacket, packetChecksum, bip4, hlow, hlow', hjoin]

/-- ENCODE's packet carries its own checksum (rule R73). -/
theorem highNibble_encodePacket (low : BitVec 3) (reg : Byte) (value : Half) (w lr : Bool) :
    highNibble (encodePacket low reg value w lr).b0 = packetChecksum (encodePacket low reg value w lr) := by
  simp [encodePacket_eq_sealPacket]

/-- Settles O4: CHK by ENCODE as SEAL, the bytes by splitting the word into them again. -/
theorem commandPacketFields : Obligations.CommandPacketFields := by
  intro reg value w p x
  have hsplit : packetOfWord x = p := packetOfWord_wordOfPacket p
  have hlow : lowNibble p.b0 = BitVec.ofBool w ++ 0#3 := by
    rw [← hsplit]
    exact Laws.low_of_request reg value w
  have hb0 : x.extractLsb' 24 8 = p.b0 := congrArg Packet.b0 hsplit
  have hb1 : x.extractLsb' 16 8 = p.b1 := congrArg Packet.b1 hsplit
  have hb2 : x.extractLsb' 8 8 = p.b2 := congrArg Packet.b2 hsplit
  have hb3 : x.extractLsb' 0 8 = p.b3 := congrArg Packet.b3 hsplit
  have hchk : x.extractLsb' 28 4 = packetChecksum p :=
    (extractLsb'_28_4_wordOfPacket p).trans (highNibble_encodePacket ..)
  have hw : x.getLsbD 27 = w := by
    rw [getLsbD_27_wordOfPacket, hlow]
    cases w <;> rfl
  have hzero : x.extractLsb' 24 3 = 0#3 := by
    rw [extractLsb'_24_3_wordOfPacket, hlow, BitVec.extractLsb'_append_eq_right]
  exact ⟨hchk, hw, hzero, hb1, hb2, hb3, hb0.symm, hb1.symm, hb2.symm, hb3.symm⟩

/-! ## DECODE -/

/-- DECODE of a packet whose checksum is wrong is ChecksumError, without any field (rule R108). -/
theorem decodePacket_of_checksum_ne {c : Config} {p : Packet} (h : highNibble p.b0 ≠ packetChecksum p) :
    decodePacket c p = none :=
  if_neg h

/-- DECODE of a packet whose checksum is right gives its fields (rule R107). -/
theorem decodePacket_of_checksum_eq {c : Config} {p : Packet} (h : highNibble p.b0 = packetChecksum p) :
    decodePacket c p = some (responseOf c p) :=
  if_pos h

/-- The fields at the default positions: CE in bit 3 of byte 0, RSV in bit 2, STATUS in bits 1:0 (the spec's decision
D8). -/
theorem responseOf_default (p : Packet) :
    responseOf Config.default p
      = { ce := p.b0.getLsbD 3, rsv := p.b0.getLsbD 2, status := p.b0.extractLsb' 0 2, reg := p.b1,
          data := p.b2 ++ p.b3 } := by
  have hce : (lowNibble p.b0).getLsbD 3 = p.b0.getLsbD 3 := by simp [lowNibble]
  have hrsv : (lowNibble p.b0).getLsbD 2 = p.b0.getLsbD 2 := by simp [lowNibble]
  have hstatus : (lowNibble p.b0).extractLsb' 0 2 = p.b0.extractLsb' 0 2 :=
    BitVec.extractLsb'_extractLsb'_of_le (by decide)
  rw [← hce, ← hrsv, ← hstatus]
  rfl

/-- Settles O5: by whether the checksum is right, with the fields at their default positions. -/
theorem decodeChecksThenParses : Obligations.DecodeChecksThenParses := fun p =>
  ⟨decodePacket_of_checksum_ne, fun h => (decodePacket_of_checksum_eq h).trans (congrArg some (responseOf_default p))⟩

end Sys2Proof.Machine
end

section
/-! Proofs of the statements about the host word (30_encoding.md, rules R77 and R79): what the host decoder answers, by
the row a word selects, and the operands of a TXN word in the request packet. -/

namespace Sys2Proof.Machine

/-! ## The four rows and the host decoder -/

/-- Every two rows of host words fix a common bit differently (decision D4). -/
theorem hostRows_conflict :
    [rowTxnRd, rowTxnWr, rowNegotiate, rowSetverb].Pairwise
      fun r r' => r.pattern &&& r'.mask ≠ r'.pattern &&& r.mask := by
  decide

/-- No word selects two rows of host words. -/
theorem hostRows_pairwise_not_selects (w : Word) :
    [rowTxnRd, rowTxnWr, rowNegotiate, rowSetverb].Pairwise
      fun r r' => ¬ (r.selects w = true ∧ r'.selects w = true) :=
  hostRows_conflict.imp fun hconflict ⟨hr, hr'⟩ =>
    Bool.eq_false_iff.mp (selects_eq_false_of_conflict hconflict hr) hr'

/-- The host decoder answers the command of the row a word selects; the order in which it tries the rows does not
matter (rule R79). -/
theorem decodeHost_eq_ok_iff {w : Word} {i : Instr} :
    decodeHost w = .ok i ↔
      (rowTxnRd.selects w = true ∧ i = .txnRd (tcField w) (regField w) (valueField w))
      ∨ (rowTxnWr.selects w = true ∧ i = .txnWr (tcField w) (regField w) (valueField w))
      ∨ (rowNegotiate.selects w = true ∧ i = .negotiate)
      ∨ (rowSetverb.selects w = true ∧ i = .setverb (vField w)) := by
  refine ⟨decodeHost_ok, ?_⟩
  have hdisj := hostRows_pairwise_not_selects w
  simp only [List.pairwise_cons, List.forall_mem_cons, not_and] at hdisj
  obtain ⟨⟨hRdWr, hRdNeg, hRdVerb, -⟩, ⟨hWrNeg, hWrVerb, -⟩, ⟨hNegVerb, -⟩, -⟩ := hdisj
  rintro (⟨hsel, rfl⟩ | ⟨hsel, rfl⟩ | ⟨hsel, rfl⟩ | ⟨hsel, rfl⟩) <;> unfold decodeHost
  · rw [if_pos hsel]
  · rw [if_neg fun h => hRdWr h hsel, if_pos hsel]
  · rw [if_neg fun h => hRdNeg h hsel, if_neg fun h => hWrNeg h hsel, if_pos hsel]
  · rw [if_neg fun h => hRdVerb h hsel, if_neg fun h => hWrVerb h hsel, if_neg fun h => hNegVerb h hsel, if_pos hsel]

theorem decodeHost_eq_txnRd_iff {w : Word} {tc : Bool} {reg : Byte} {value : Half} :
    decodeHost w = .ok (.txnRd tc reg value)
      ↔ rowTxnRd.selects w = true ∧ tc = tcField w ∧ reg = regField w ∧ value = valueField w := by
  simp [decodeHost_eq_ok_iff]

theorem decodeHost_eq_txnWr_iff {w : Word} {tc : Bool} {reg : Byte} {value : Half} :
    decodeHost w = .ok (.txnWr tc reg value)
      ↔ rowTxnWr.selects w = true ∧ tc = tcField w ∧ reg = regField w ∧ value = valueField w := by
  simp [decodeHost_eq_ok_iff]

theorem decodeHost_eq_negotiate_iff {w : Word} : decodeHost w = .ok .negotiate ↔ rowNegotiate.selects w = true := by
  simp [decodeHost_eq_ok_iff]

theorem decodeHost_eq_setverb_iff {w : Word} {v : Bool} :
    decodeHost w = .ok (.setverb v) ↔ rowSetverb.selects w = true ∧ v = vField w := by
  simp [decodeHost_eq_ok_iff]

/-- Settles O10: each row by the host decoder's cases, and no overlap since every two rows fix a common bit
differently. -/
theorem hostWordIsItsSelectedRow : Obligations.HostWordIsItsSelectedRow := by
  intro w
  have hrd := (decodeHost_eq_txnRd_iff (w := w)).trans (and_iff_left ⟨rfl, rfl, rfl⟩)
  have hwr := (decodeHost_eq_txnWr_iff (w := w)).trans (and_iff_left ⟨rfl, rfl, rfl⟩)
  have hverb := (decodeHost_eq_setverb_iff (w := w)).trans (and_iff_left rfl)
  exact ⟨(hrd.trans (selects_iff ..)).symm, (hwr.trans (selects_iff ..)).symm,
    (decodeHost_eq_negotiate_iff.trans (selects_iff ..)).symm, (hverb.trans (selects_iff ..)).symm,
    hostRows_pairwise_not_selects w⟩

/-! ## The operands of a TXN word in the packet -/

/-- A word has the pattern's value at every bit its row fixes. -/
theorem getLsbD_of_selects {r : Row} {w : Word} {k : Nat} (h : r.selects w = true) (hk : r.mask.getLsbD k = true) :
    w.getLsbD k = r.pattern.getLsbD k := by
  rw [selects_iff] at h
  simp [← h, hk]

/-- Bit 27 of a TXN word says whether it is a write (rule R75). -/
theorem getLsbD_27_of_txn {w : Word} (wr : Bool) (h : (if wr then rowTxnWr else rowTxnRd).selects w = true) :
    w.getLsbD 27 = wr :=
  (getLsbD_of_selects h (by cases wr <;> rfl)).trans (by cases wr <;> rfl)

/-- ENCODE puts W and the three low bits into the lower nibble of byte 0 (rule R103). -/
theorem lowNibble_encodePacket (low : BitVec 3) (reg : Byte) (value : Half) (w lr : Bool) :
    lowNibble (encodePacket low reg value w lr).b0 = BitVec.ofBool w ++ low := by
  rw [encodePacket_eq_sealPacket, lowNibble_sealPacket]
  exact lowNibble_append ..

/-- W stands in bit 3 of byte 0. -/
theorem getLsbD_3_encodePacket (low : BitVec 3) (reg : Byte) (value : Half) (w lr : Bool) :
    (encodePacket low reg value w lr).b0.getLsbD 3 = w := by
  have hbit (b : Byte) : b.getLsbD 3 = (lowNibble b).getLsbD 3 := by simp [lowNibble]
  rw [hbit, lowNibble_encodePacket, BitVec.getLsbD_append]
  simp

/-- The request of a TXN word carries the word's own bytes 1 to 3 and its W bit, under any parameters (rule R77). -/
theorem requestPacket_of_txn (c : Config) {w : Word} (wr : Bool)
    (h : (if wr then rowTxnWr else rowTxnRd).selects w = true) :
    let p := requestPacket c (regField w) (valueField w) wr
    p.b1 = w.extractLsb' 16 8 ∧ p.b2 = w.extractLsb' 8 8 ∧ p.b3 = w.extractLsb' 0 8
      ∧ p.b0.getLsbD 3 = w.getLsbD 27 :=
  ⟨rfl, extractLsb'_extractLsb'_add w (by decide), extractLsb'_extractLsb'_add w (by decide),
    (getLsbD_3_encodePacket ..).trans (getLsbD_27_of_txn wr h).symm⟩

/-- Settles O15: the decoder takes the operands from the word's fields, and the request carries them. -/
theorem operandsAreCopiedIntoThePacket : Obligations.OperandsAreCopiedIntoThePacket := by
  intro w tc reg value
  refine ⟨fun hrd => ?_, fun hwr => ?_, fun v hverb => (decodeHost_eq_setverb_iff.mp hverb).right⟩
  · obtain ⟨hsel, -, rfl, rfl⟩ := decodeHost_eq_txnRd_iff.mp hrd
    exact requestPacket_of_txn Config.default false hsel
  · obtain ⟨hsel, -, rfl, rfl⟩ := decodeHost_eq_txnWr_iff.mp hwr
    exact requestPacket_of_txn Config.default true hsel

end Sys2Proof.Machine
end

section
/-! Proofs of the statements about the checksum and SEAL (40_checksum_framing.md, rules R100, R102 and R109): BIP4 as the
XOR of the seven covered nibbles and how it answers flipped bits, what SEAL stores, and DECODE after SEAL. -/

namespace Sys2Proof.Machine

/-! ## BIP4 -/

@[simp] theorem lowNibble_xor (a b : Byte) : lowNibble (a ^^^ b) = lowNibble a ^^^ lowNibble b :=
  BitVec.extractLsb'_xor

@[simp] theorem highNibble_xor (a b : Byte) : highNibble (a ^^^ b) = highNibble a ^^^ highNibble b :=
  BitVec.extractLsb'_xor

@[simp] theorem lowNibble_setWidth (n : Nibble) : lowNibble (n.setWidth 8) = n := by
  revert n; decide

@[simp] theorem highNibble_setWidth (n : Nibble) : highNibble (n.setWidth 8) = 0#4 := by
  revert n; decide

/-- BIP4 is the XOR of the seven covered nibbles (rule R101): the fold takes each byte apart. -/
theorem bip4_eq_xor_nibbles (b0 b1 b2 b3 : Byte) :
    bip4 b0 b1 b2 b3
      = lowNibble b0 ^^^ highNibble b1 ^^^ lowNibble b1 ^^^ highNibble b2 ^^^ lowNibble b2 ^^^ highNibble b3
        ^^^ lowNibble b3 := by
  simp only [bip4, highNibble_xor, lowNibble_xor, highNibble_setWidth, lowNibble_setWidth, BitVec.zero_xor]
  ac_rfl

/-- The checksum is linear: flipping the bits of `e` flips the checksum bits of `e`'s own checksum. -/
theorem packetChecksum_packetOfWord_xor (w e : Word) :
    packetChecksum (packetOfWord (w ^^^ e)) = packetChecksum (packetOfWord w) ^^^ packetChecksum (packetOfWord e) := by
  simp only [packetChecksum, packetOfWord, bip4_eq_xor_nibbles, BitVec.extractLsb'_xor, lowNibble_xor, highNibble_xor]
  ac_rfl

/-- The checksum of the packet whose one set bit is the covered bit `k`. -/
theorem packetChecksum_packetOfWord_oneBit :
    ∀ k < 28, packetChecksum (packetOfWord (1#32 <<< k)) = 1#4 <<< (k % 4) := by
  decide

/-- Settles O1: the fold by definition, the nibble form, and a flipped bit by linearity. -/
theorem bip4FoldsTheCoveredBits : Obligations.Bip4FoldsTheCoveredBits := by
  refine ⟨fun b0 b1 b2 b3 => ⟨rfl, bip4_eq_xor_nibbles b0 b1 b2 b3⟩, fun w k hk => ?_⟩
  rw [packetChecksum_packetOfWord_xor, packetChecksum_packetOfWord_oneBit k hk]

/-! ## SEAL -/

/-- SEAL reads the lower nibble of `b0` and the other three bytes only. -/
theorem sealPacket_congr {p q : Packet} (h0 : lowNibble p.b0 = lowNibble q.b0) (h1 : p.b1 = q.b1) (h2 : p.b2 = q.b2)
    (h3 : p.b3 = q.b3) : sealPacket p = sealPacket q := by
  simp only [sealPacket, packetChecksum_congr h0 h1 h2 h3, h0, h1, h2, h3]

/-- Settles O2: what SEAL stores by definition; the rest since neither an incoming upper nibble nor SEAL itself changes
what SEAL reads. -/
theorem sealStoresChecksumAndIsIdempotent : Obligations.SealStoresChecksumAndIsIdempotent := fun p junk =>
  ⟨rfl, sealPacket_congr (lowNibble_append junk _) rfl rfl rfl, sealPacket_congr (lowNibble_sealPacket p) rfl rfl rfl⟩

/-! ## DECODE after SEAL -/

/-- DECODE of a sealed packet is the packet's own fields, for every layout of the header. -/
theorem decodePacket_sealPacket (c : Config) (p : Packet) : decodePacket c (sealPacket p) = some (responseOf c p) := by
  have hchk : highNibble (sealPacket p).b0 = packetChecksum (sealPacket p) := by simp
  have hfields : responseOf c (sealPacket p) = responseOf c p := by
    simp only [responseOf, lowNibble_sealPacket]
    rfl
  rw [decodePacket_of_checksum_eq hchk, hfields]

/-- CE, RSV and STATUS at their default positions are the whole lower nibble of `b0`. -/
theorem ce_rsv_status_append (b : Byte) :
    BitVec.ofBool (b.getLsbD 3) ++ BitVec.ofBool (b.getLsbD 2) ++ b.extractLsb' 0 2 = lowNibble b := by
  refine BitVec.eq_of_getLsbD_eq fun k hk => ?_
  simp only [lowNibble, BitVec.getLsbD_append, BitVec.getLsbD_extractLsb']
  interval_cases k <;> simp

/-- Settles O6: the fields DECODE gives back, and the header nibble put together from them. -/
theorem sealThenDecodeRoundTrips : Obligations.SealThenDecodeRoundTrips := fun p =>
  ⟨_, (decodePacket_sealPacket Config.default p).trans (congrArg some (responseOf_default p)),
    ce_rsv_status_append p.b0, rfl, rfl⟩

end Sys2Proof.Machine
end

section
/-! Proofs of the statements about a transaction (41_transaction.md): the completion and the accepted response in closed
form and the instructions that use them, the deadline of an RX step, what a step reads of its inputs, and what a packet
is sent by. -/

namespace Sys2Proof.Machine

/-! ## Accepting a TXN and sending its packet -/

/-- Settles O18: the accept step writes the latch, the origin and the engine's state (rule R130). -/
theorem txnCommandsAreLatched : Obligations.TxnCommandsAreLatched := fun _ _ _ _ => ⟨rfl, rfl⟩

/-- Settles O21: the TX step encodes the operands with marker 1 and starts the wait (rule R140). -/
theorem requestPacketsAreSent : Obligations.RequestPacketsAreSent := fun _ _ _ => ⟨rfl, rfl⟩

/-! ## A completion in closed form, by its origin -/

/-- For the host every outcome ends the command (rule R146). -/
theorem complete_of_host {s : State} (o : Result) (horigin : s.origin = .host) : complete o s = finish o s := by
  simp [complete, horigin]

/-- An outcome that accepts the candidate of a probe ends the command as NEG_OK (rule R174). -/
theorem complete_of_probeSucceeds {o : Result} {s : State} (horigin : s.origin = .neg)
    (hsucceeds : probeSucceeds o = true) :
    complete o s = { finish { o with kind := .negOk } s with baudOk := true, accIdx := s.negIdx } := by
  simp [complete, horigin, negStep, hsucceeds]

/-- An outcome that fails the candidate of a probe leads to the next candidate, or to the fallback after the last
(rule R175). -/
theorem complete_of_probeFails {o : Result} {s : State} (horigin : s.origin = .neg)
    (hfails : probeSucceeds o = false) :
    complete o s = { s with
      negIdx := if s.negIdx.toNat + 1 < s.cfg.nBaud then s.negIdx + 1#3 else s.negIdx
      state := if s.negIdx.toNat + 1 < s.cfg.nBaud then .negCfg else .negFallback } := by
  simp only [complete, horigin, negStep, hfails, Bool.false_eq_true, if_false]
  split <;> rfl

/-- Settles O22: neither kind is TXN_OK, so either fails the candidate of a probe. -/
theorem failedResponseRecordsNothing : Obligations.FailedResponseRecordsNothing := by
  intro chk low rsv status reg data s ended movedOn
  have hcomplete (k : Kind) (hfails : probeSucceeds (.plain k) = false) :
      complete (.plain k) s = if s.origin = .host then ended k else movedOn := by
    cases horigin : s.origin with
    | host => exact complete_of_host _ horigin
    | neg => exact complete_of_probeFails horigin hfails
  exact ⟨congrArg _ (hcomplete .txnChecksum rfl), congrArg _ (hcomplete .txnCe rfl)⟩

/-! ## An accepted response in closed form -/

/-- The diagnostic port after the comparison of the echo (rules R43 and R145). -/
theorem diagEcho_eq (reg : Byte) (s : State) :
    diagEcho reg s = { s with out := { s.out with
      diag := if reg ≠ s.reqReg ∧ s.verbose = true then some (0x1#4, s.reqReg ++ reg) else s.out.diag } } := by
  by_cases hdiag : reg ≠ s.reqReg ∧ s.verbose = true
  · simp [diagEcho, echoMismatch, hdiag]
  · simp only [diagEcho, echoMismatch, Bool.and_eq_true, bne_iff_ne, if_neg hdiag]

/-- An accepted response is a completion after the cache and the diagnostic port are written (rule R145). -/
theorem acceptResponse_eq (st : Status) (reg : Byte) (data : Half) (s : State) :
    acceptResponse st reg data s
      = complete { kind := .txnOk, status := st, reg := reg, data := data, echoMm := reg != s.reqReg } { s with
          last := { valid := true, status := st, reg := reg, data := data }
          out := { s.out with
            diag := if reg ≠ s.reqReg ∧ s.verbose = true then some (0x1#4, s.reqReg ++ reg) else s.out.diag } } := by
  rw [acceptResponse, diagEcho_eq]
  rfl

/-- Settles O23: the response is cached, the echo compared, and the host's command ends. -/
theorem goodResponseEndsHostTransaction : Obligations.GoodResponseEndsHostTransaction := by
  intro rsv reg data s horigin after
  have haccept (st : Status) : acceptResponse st reg data s = after st :=
    (acceptResponse_eq ..).trans (complete_of_host _ horigin)
  exact ⟨congrArg _ (haccept 0#2), congrArg _ (haccept 1#2), congrArg _ (haccept 2#2), congrArg _ (haccept 3#2)⟩

/-- Settles O24: the response is cached and the echo compared; then status 0 accepts the candidate, and another status
fails it. -/
theorem goodResponseDecidesTheCandidate : Obligations.GoodResponseDecidesTheCandidate := by
  intro rsv reg data s horigin diag movedOn
  have haccept := (acceptResponse_eq 0#2 reg data s).trans (complete_of_probeSucceeds horigin rfl)
  have hfail (st : Status) (hst : (st == 0#2) = false) : acceptResponse st reg data s = movedOn st :=
    (acceptResponse_eq ..).trans (complete_of_probeFails horigin (by simp [probeSucceeds, hst]))
  exact ⟨congrArg Host.Outcome.next haccept, congrArg _ (hfail 1#2 rfl), congrArg _ (hfail 2#2 rfl),
    congrArg _ (hfail 3#2 rfl)⟩

/-! ## The deadline of an RX step -/

theorem fetch_of_rx {s : State} (hrst : s.env.inp.rst = false) (hstate : s.state = .rx) :
    fetch s = .micro .receive := by
  simp [fetch, hrst, hstate]

/-- With the default parameter an RX step from the deadline on times out, whatever the queue (rules R142 and R207). -/
theorem step_of_rx_timeout {s : State} (hrst : s.env.inp.rst = false) (hstate : s.state = .rx)
    (hexclusive : s.cfg.deadlineInclusive = false) (hdeadline : deadline s.cfg s.reqTc ≤ elapsed (nowMs s) s.t0) :
    step s = .next (advance (complete (.plain .txnTimeout) (quiet s))) := by
  apply step_of_perform
  rw [fetch_of_rx hrst hstate]
  exact if_pos ((expired_exclusive hexclusive ..).trans (decide_eq_true hdeadline))

/-- Settles O35: from the deadline on the step is the completion with TXN_TIMEOUT, which fails a probe. -/
theorem rxStepTimesOutAtDeadline : Obligations.RxStepTimesOutAtDeadline := by
  intro s hrst hstate hexclusive hdeadline
  rw [step_of_rx_timeout hrst hstate hexclusive hdeadline]
  refine ⟨fun horigin => ?_, fun horigin => ?_⟩
  · rw [complete_of_host _ ((quiet_origin s).trans horigin)]
    rfl
  · rw [complete_of_probeFails ((quiet_origin s).trans horigin) rfl]
    rfl

/-! ## What a step reads of its inputs -/

/-- `s` with other values on all the input ports. -/
def withInputs (inp : Inputs) (s : State) : State := { s with env := { s.env with inp := inp } }

theorem withCommand_eq_withInputs (s : State) (valid : Bool) (w : Word) :
    withCommand s valid w = withInputs { s.env.inp with cmdValid := valid, cmdWord := w } s := rfl

@[simp] theorem withInputs_cfg (inp : Inputs) (s : State) : (withInputs inp s).cfg = s.cfg := rfl
@[simp] theorem withInputs_negIdx (inp : Inputs) (s : State) : (withInputs inp s).negIdx = s.negIdx := rfl
@[simp] theorem withInputs_line (inp : Inputs) (s : State) : (withInputs inp s).line = s.line := rfl
@[simp] theorem withInputs_script (inp : Inputs) (s : State) : (withInputs inp s).env.script = s.env.script := rfl

/-- The passage to the next step replaces the inputs. -/
@[simp] theorem advance_withInputs (inp : Inputs) (s : State) : advance (withInputs inp s) = advance s := by
  cases hscript : s.env.script <;> simp only [advance, withInputs_script, hscript] <;> rfl

theorem complete_withInputs (o : Result) (inp : Inputs) (s : State) :
    complete o (withInputs inp s) = withInputs inp (complete o s) := by
  cases horigin : s.origin with
  | host =>
    have horigin' : (withInputs inp s).origin = .host := horigin
    rw [complete_of_host o horigin, complete_of_host o horigin']
    rfl
  | neg =>
    have horigin' : (withInputs inp s).origin = .neg := horigin
    cases hprobe : probeSucceeds o with
    | true =>
      rw [complete_of_probeSucceeds horigin hprobe, complete_of_probeSucceeds horigin' hprobe]
      rfl
    | false =>
      rw [complete_of_probeFails horigin hprobe, complete_of_probeFails horigin' hprobe]
      rfl

theorem acceptResponse_withInputs (st : Status) (reg : Byte) (data : Half) (inp : Inputs) (s : State) :
    acceptResponse st reg data (withInputs inp s) = withInputs inp (acceptResponse st reg data s) := by
  simp only [acceptResponse, ← complete_withInputs, diagEcho_eq]
  rfl

/-- No instruction reads the input ports. -/
theorem exec_withInputs (i : Instr) (inp : Inputs) (s : State) :
    exec i (withInputs inp s) = andThen (withInputs inp) (exec i s) := by
  cases i with
  | txnRd | txnWr | negotiate | setverb | cmdRd | cmdWr => rfl
  | rspBad | rspCe => exact congrArg _ (complete_withInputs ..)
  | rspOk | rspXe | rspAea | rspCp => exact congrArg _ (acceptResponse_withInputs ..)

theorem receiveStep_withInputs (inp : Inputs) (s : State) :
    receiveStep (withInputs inp s) = andThen (withInputs inp) (receiveStep s) := by
  cases hrxq : s.line.rxq <;>
    simp only [receiveStep, withInputs_line, hrxq, complete_withInputs, apply_ite (andThen (withInputs inp))] <;> rfl

theorem candidateStep_withInputs (inp : Inputs) (s : State) :
    candidateStep (withInputs inp s) = andThen (withInputs inp) (candidateStep s) := by
  simp only [candidateStep, withInputs_cfg, withInputs_negIdx]
  split <;> rfl

theorem settleStep_withInputs (inp : Inputs) (s : State) :
    settleStep (withInputs inp s) = withInputs inp (settleStep s) := by
  rw [settleStep, settleStep, apply_ite (withInputs inp)]
  rfl

/-- No step that runs no instruction reads the input ports. -/
theorem runMicro_withInputs (m : Micro) (inp : Inputs) (s : State) :
    runMicro m (withInputs inp s) = andThen (withInputs inp) (runMicro m s) := by
  cases m with
  | reset | boot | rest | illegal | fallback => rfl
  | receive => exact receiveStep_withInputs ..
  | candidate => exact candidateStep_withInputs ..
  | settle => exact congrArg _ (settleStep_withInputs ..)

theorem perform_withInputs (f : Fetched) (inp : Inputs) (s : State) :
    perform f (withInputs inp s) = andThen (withInputs inp) (perform f s) := by
  cases f with
  | instr i => exact exec_withInputs i inp s
  | micro m => exact runMicro_withInputs m inp s

/-- Inputs matter to a step only in what they make it run. -/
theorem step_withInputs (inp : Inputs) (s : State) :
    step (withInputs inp s) = andThen advance (perform (fetch (withInputs inp s)) (quiet s)) := by
  have hquiet : quiet (withInputs inp s) = withInputs inp (quiet s) := rfl
  rw [step, hquiet, perform_withInputs]
  cases perform (fetch (withInputs inp s)) (quiet s) <;> simp

theorem fetch_of_rst {s : State} (hrst : s.env.inp.rst = true) : fetch s = .micro .reset := if_pos hrst

/-- Where no command is met, the command port has no part in what a step runs (rules R41, R207). -/
theorem fetch_withCommand {s : State} (h : s.state ≠ .idle ∨ s.env.inp.rst = true) (valid : Bool) (w : Word) :
    fetch (withCommand s valid w) = fetch s := by
  rcases h with hstate | hrst
  · cases hs : s.state with
    | idle => exact absurd hs hstate
    | _ => simp [fetch, withCommand, latchedRequest, hs]
  · rw [fetch_of_rst hrst]
    exact fetch_of_rst hrst

theorem fetch_withCommand_invalid {s : State} (hstate : s.state = .idle) (w : Word) :
    fetch (withCommand s false w) = if s.env.inp.rst then .micro .reset else .micro .rest := by
  simp [fetch, withCommand, hstate]

/-- Settles O28: a step runs the same thing, and nothing it runs reads the command port. -/
theorem commandPortIgnoredOutsideIdle : Obligations.CommandPortIgnoredOutsideIdle := by
  intro s valid w
  refine ⟨fun h => ?_, rfl, fun hstate => ?_⟩
  · have hfetch := fetch_withCommand h valid w
    rw [withCommand_eq_withInputs] at hfetch ⊢
    rw [step_withInputs, hfetch]
    rfl
  · have hfetch : fetch (withCommand s false w) = fetch (withCommand s false 0#32) :=
      (fetch_withCommand_invalid hstate w).trans (fetch_withCommand_invalid hstate 0#32).symm
    simp only [withCommand_eq_withInputs] at hfetch ⊢
    rw [step_withInputs, step_withInputs, hfetch]

/-! ## What sends a packet, and how a transaction ends -/

@[simp] theorem complete_out_tx (o : Result) (s : State) : (complete o s).out.tx = s.out.tx := by
  rcases complete_cases o s with ⟨_, e⟩ | ⟨_, _, e⟩ | ⟨_, _, _, e⟩ | ⟨_, _, _, e⟩ <;> simp [e]

@[simp] theorem acceptResponse_out_tx (st : Status) (reg : Byte) (data : Half) (s : State) :
    (acceptResponse st reg data s).out.tx = s.out.tx := by
  simp [acceptResponse]

@[simp] theorem bootStep_out_tx (s : State) : (bootStep s).out.tx = s.out.tx := rfl
@[simp] theorem fallbackStep_out_tx (s : State) : (fallbackStep s).out.tx = s.out.tx := rfl
@[simp] theorem settleStep_out (s : State) : (settleStep s).out = s.out := by unfold settleStep; split <;> rfl

/-- No completion leads to TX (rules R146 and R175). -/
theorem complete_state_ne_tx (o : Result) (s : State) : (complete o s).state ≠ .tx := by
  rcases complete_cases o s with ⟨_, e⟩ | ⟨_, _, e⟩ | ⟨_, _, _, e⟩ | ⟨_, _, _, e⟩ <;> simp [e]

theorem acceptResponse_state_ne_tx (st : Status) (reg : Byte) (data : Half) (s : State) :
    (acceptResponse st reg data s).state ≠ .tx :=
  complete_state_ne_tx _ _

/-- The TX step and no other sends, and what it sends is the latched request (rule R140). -/
theorem StepCase.out_tx_eq {s u : State} (h : StepCase s u) (hrst : s.env.inp.rst = false) :
    u.out.tx = if s.state = .tx then some (wordOfPacket (requestPacket s.cfg s.reqReg s.reqVal s.reqW))
      else s.out.tx := by
  cases h
  case reset hr => simp [hrst] at hr
  case send _ hs => simp [hs]
  all_goals simp [*]

/-- The engine leaves TX for RX in one step. -/
theorem StepCase.state_of_tx {s u : State} (h : StepCase s u) (hrst : s.env.inp.rst = false) (hstate : s.state = .tx) :
    u.state = .rx := by
  cases h
  case reset hr => simp [hrst] at hr
  case send => rfl
  all_goals simp_all

/-- Under a narrower mask a word has its row's pattern. -/
theorem and_of_selects {r : Row} {w m : Word} (h : r.selects w = true) (hm : r.mask &&& m = m) :
    w &&& m = r.pattern &&& m := by
  rw [selects_iff] at h
  rw [← h, BitVec.and_assoc, hm]

/-- Bits 31:28 and 25:24 tell a TXN word, read or write, from the rest (rule R79). -/
theorem and_of_txn {w : Word} (wr : Bool) (h : (if wr then rowTxnWr else rowTxnRd).selects w = true) :
    w &&& 0xF3000000#32 = 0x10000000#32 :=
  (and_of_selects h (by cases wr <;> decide)).trans (by cases wr <;> decide)

/-- TX is entered by a probe and by an accepted TXN word (rules R130 and R173). -/
theorem StepCase.enters_tx {s u : State} (h : StepCase s u) (hrst : s.env.inp.rst = false) (hu : u.state = .tx) :
    s.state = .negSettle ∨ (s.state = .idle ∧ s.env.inp.cmdValid = true
      ∧ s.env.inp.cmdWord &&& 0xF3000000#32 = 0x10000000#32) := by
  cases h
  case settle hs => exact .inl hs
  case txn wr _ hs hv hw => exact .inr ⟨hs, hv, and_of_txn wr hw⟩
  case timeout => exact absurd hu (complete_state_ne_tx _ _)
  case checksum => exact absurd hu (complete_state_ne_tx _ _)
  case commError => exact absurd hu (complete_state_ne_tx _ _)
  case good => exact absurd hu (acceptResponse_state_ne_tx _ _ _ _)
  case reset hr => simp [hrst] at hr
  all_goals simp_all [bootStep, fallbackStep]

/-- A host transaction in RX or CHECK waits, or ends with an outcome that names how (rules R141 to R145). -/
theorem StepCase.waits_or_ends_of_host {s u : State} (h : StepCase s u) (hrst : s.env.inp.rst = false)
    (horigin : s.origin = .host) (hstate : s.state = .rx ∨ s.state = .check) :
    ((u.state = .rx ∨ u.state = .check) ∧ u.out.done = s.out.done)
    ∨ (u.state = .idle ∧ u.out.done = true ∧ (u.result.kind = .txnOk ∨ u.result.kind = .txnTimeout
        ∨ u.result.kind = .txnChecksum ∨ u.result.kind = .txnCe)) := by
  cases h
  case timeout => simp [complete_of_host _ horigin]
  case checksum => simp [complete_of_host _ horigin]
  case commError => simp [complete_of_host _ horigin]
  case good => simp [acceptResponse, complete_of_host, horigin]
  case poll hs _ _ => exact .inl ⟨.inl hs, rfl⟩
  case take hs _ _ _ => exact .inl ⟨.inl hs, rfl⟩
  case takeLast => exact .inl ⟨.inr rfl, rfl⟩
  case reset hr => simp [hrst] at hr
  all_goals simp_all

/-- Settles O51: by the cases of a step, what sends, what enters TX, and what RX and CHECK of the host lead to. -/
theorem packetSentOncePerTransaction : Obligations.PacketSentOncePerTransaction := by
  intro s t h hrst
  obtain ⟨u, hc, rfl⟩ := step_cases h
  have htx := hc.out_tx_eq hrst
  refine ⟨fun hstate => ?_, fun hstate => ?_, fun hu => ?_, fun horigin hstate => ?_⟩
  · exact ⟨(advance_state u).trans (hc.state_of_tx hrst hstate), by simpa [hstate, requestPacket] using htx⟩
  · simpa [hstate, Outputs.quiet] using htx
  · exact hc.enters_tx hrst (by simpa using hu)
  · simpa [Outputs.quiet] using hc.waits_or_ends_of_host hrst horigin hstate

end Sys2Proof.Machine
end

section
/-! Proofs of the statements about the control (42_control.md): what a probe's outcome does to the negotiation, the
steps of the sequencer and of an illegal host word, and that the verbosity flag shows at the diagnostic port alone. -/

namespace Sys2Proof.Machine

/-! ## NEGOTIATE, SETVERB and the outcome of a probe -/

/-- Settles O19: the accept step of NEGOTIATE withdraws the accepted candidate and starts at the first (rule R171). -/
theorem negotiateStartsAtIndexZero : Obligations.NegotiateStartsAtIndexZero := fun _ => rfl

/-- Settles O20: SETVERB is a completion after the flag is written (rule R180). -/
theorem setverbSetsFlagAndCompletes : Obligations.SetverbSetsFlagAndCompletes := fun _ _ => rfl

/-- Settles O25: a completion of origin NEG, by whether the outcome accepts the candidate and whether one is left. -/
theorem probeOutcomeAcceptsOrMovesOn : Obligations.ProbeOutcomeAcceptsOrMovesOn := by
  intro o s horigin
  have hfails (h : ¬ (o.kind = .txnOk ∧ o.status = 0#2)) : probeSucceeds o = false := by
    rwa [← probeSucceeds_iff, Bool.not_eq_true] at h
  refine ⟨fun hok => ?_, fun hbad hleft => ?_, fun hbad hlast => ?_⟩
  · rw [complete_of_probeSucceeds horigin ((probeSucceeds_iff o).mpr hok)]
    rfl
  · rw [complete_of_probeFails horigin (hfails hbad), if_pos hleft, if_pos hleft]
  · rw [complete_of_probeFails horigin (hfails hbad), if_neg hlast.not_gt, if_neg hlast.not_gt]

/-! ## The steps of the sequencer -/

theorem fetch_of_negCfg {s : State} (hrst : s.env.inp.rst = false) (hstate : s.state = .negCfg) :
    fetch s = .micro .candidate := by
  simp [fetch, hrst, hstate]

theorem fetch_of_negSettle {s : State} (hrst : s.env.inp.rst = false) (hstate : s.state = .negSettle) :
    fetch s = .micro .settle := by
  simp [fetch, hrst, hstate]

theorem fetch_of_negFallback {s : State} (hrst : s.env.inp.rst = false) (hstate : s.state = .negFallback) :
    fetch s = .micro .fallback := by
  simp [fetch, hrst, hstate]

theorem candidateStep_of_some {s : State} {b : Rate} (hb : s.cfg.baudList[s.negIdx.toNat]? = some b) :
    candidateStep s = .next { configure b s with tCfg := nowMs s, state := .negSettle } := by
  simp [candidateStep, hb]

/-- Once `T_SETTLE` has passed, NEG_SETTLE latches the probe (rule R173). -/
theorem settleStep_of_settled {s : State} (h : s.cfg.tSettle ≤ nowMs s - s.tCfg) :
    settleStep s = { s with
      reqReg := s.cfg.nopReg, reqVal := 0#16, reqW := false, reqTc := false, origin := .neg, state := .tx } :=
  if_pos ((settled_iff ..).mpr h)

/-- Settles O38: the step is NEG_CFG's, and the index names a candidate (rule R172). -/
theorem negCfgConfiguresCandidate : Obligations.NegCfgConfiguresCandidate := by
  intro s b hrst hstate hb
  apply step_of_perform
  rw [fetch_of_negCfg hrst hstate]
  exact candidateStep_of_some (s := quiet s) hb

/-- Settles O39: the settled step latches the probe; the fallback step configures and completes. -/
theorem settledProbeAndFallback : Obligations.SettledProbeAndFallback := by
  intro s hrst
  refine ⟨fun hstate hsettled => ?_, fun hstate => ?_⟩
  · apply step_of_perform
    rw [fetch_of_negSettle hrst hstate]
    exact congrArg _ (settleStep_of_settled (s := quiet s) hsettled)
  · apply step_of_perform
    rw [fetch_of_negFallback hrst hstate]
    rfl

/-! ## An illegal host word -/

/-- A word that selects no row is rejected (rule R80). -/
theorem decodeHost_of_no_row {w : Word}
    (h : ∀ r ∈ [rowTxnRd, rowTxnWr, rowNegotiate, rowSetverb], r.selects w = false) :
    decodeHost w = .rejected (hostRejection w) := by
  simp only [List.forall_mem_cons] at h
  obtain ⟨hrd, hwr, hneg, hverb, -⟩ := h
  simp only [decodeHost, hrd, hwr, hneg, hverb, Bool.false_eq_true, if_false]

theorem fetch_of_rejected {s : State} {e : DecodeError} (hrst : s.env.inp.rst = false) (hstate : s.state = .idle)
    (hvalid : s.env.inp.cmdValid = true) (hw : decodeHost s.env.inp.cmdWord = .rejected e) :
    fetch s = .micro (.illegal e) := by
  simp [fetch, hrst, hstate, hvalid, decode, hw]

/-- Settles O27: the word selects no row, so the step is the completion with ILLEGAL, and the engine was in IDLE
already (rule R182). -/
theorem illegalWordCompletesAtOnce : Obligations.IllegalWordCompletesAtOnce := by
  intro s hrst hstate hvalid hrd hwr hneg hverb
  have hw := decodeHost_of_no_row (w := s.env.inp.cmdWord) (by
    simpa [Bool.eq_false_iff, rowTxnRd, rowTxnWr, rowNegotiate, rowSetverb] using ⟨hrd, hwr, hneg, hverb⟩)
  apply step_of_perform
  rw [fetch_of_rejected hrst hstate hvalid hw]
  cases s
  cases hstate
  rfl

/-! ## The verbosity flag

No operation reads the diagnostic port, and only the diagnostic itself reads the flag. So what a step does to a state,
the two hidden, is a function of the state with the two hidden (rule R181). -/

@[simp] theorem hideVerbosity_cfg (s : State) : (hideVerbosity s).cfg = s.cfg := rfl
@[simp] theorem hideVerbosity_origin (s : State) : (hideVerbosity s).origin = s.origin := rfl
@[simp] theorem hideVerbosity_negIdx (s : State) : (hideVerbosity s).negIdx = s.negIdx := rfl
@[simp] theorem hideVerbosity_line (s : State) : (hideVerbosity s).line = s.line := rfl
@[simp] theorem hideVerbosity_script (s : State) : (hideVerbosity s).env.script = s.env.script := rfl
@[simp] theorem hideVerbosity_idem (s : State) : hideVerbosity (hideVerbosity s) = hideVerbosity s := rfl
@[simp] theorem quiet_hideVerbosity (s : State) : quiet (hideVerbosity s) = hideVerbosity (quiet s) := rfl
@[simp] theorem fetch_hideVerbosity (s : State) : fetch (hideVerbosity s) = fetch s := rfl

@[simp] theorem advance_hideVerbosity (s : State) : advance (hideVerbosity s) = hideVerbosity (advance s) := by
  cases hscript : s.env.script <;> simp only [advance, hideVerbosity_script, hscript] <;> rfl

theorem negStep_hideVerbosity (o : Result) (s : State) : negStep o (hideVerbosity s) = hideVerbosity (negStep o s) := by
  simp only [negStep, apply_ite hideVerbosity]
  rfl

@[simp] theorem complete_hideVerbosity (o : Result) (s : State) :
    complete o (hideVerbosity s) = hideVerbosity (complete o s) := by
  cases horigin : s.origin with
  | host => simp only [complete, hideVerbosity_origin, horigin]; rfl
  | neg => simp only [complete, hideVerbosity_origin, horigin, negStep_hideVerbosity]

/-- All that the echo comparison does is hidden. -/
theorem hideVerbosity_diagEcho (reg : Byte) (s : State) : hideVerbosity (diagEcho reg s) = hideVerbosity s := by
  rw [diagEcho_eq]
  rfl

theorem hideVerbosity_acceptResponse (st : Status) (reg : Byte) (data : Half) (s : State) :
    hideVerbosity (acceptResponse st reg data (hideVerbosity s)) = hideVerbosity (acceptResponse st reg data s) := by
  simp only [acceptResponse, ← complete_hideVerbosity, hideVerbosity_diagEcho]
  rfl

/-- An instruction's effect outside the flag and the diagnostic port depends on neither. -/
theorem exec_hideVerbosity (i : Instr) (s : State) :
    andThen hideVerbosity (exec i (hideVerbosity s)) = andThen hideVerbosity (exec i s) := by
  cases i with
  | txnRd | txnWr | negotiate | setverb | cmdRd | cmdWr => rfl
  | rspBad | rspCe => exact congrArg Host.Outcome.next (by rw [complete_hideVerbosity, hideVerbosity_idem])
  | rspOk | rspXe | rspAea | rspCp => exact congrArg Host.Outcome.next (hideVerbosity_acceptResponse ..)

theorem receiveStep_hideVerbosity (s : State) :
    receiveStep (hideVerbosity s) = andThen hideVerbosity (receiveStep s) := by
  cases hrxq : s.line.rxq <;>
    simp only [receiveStep, hideVerbosity_line, hrxq, complete_hideVerbosity, apply_ite (andThen hideVerbosity)] <;> rfl

theorem candidateStep_hideVerbosity (s : State) :
    candidateStep (hideVerbosity s) = andThen hideVerbosity (candidateStep s) := by
  simp only [candidateStep, hideVerbosity_cfg, hideVerbosity_negIdx]
  split <;> rfl

theorem settleStep_hideVerbosity (s : State) : settleStep (hideVerbosity s) = hideVerbosity (settleStep s) := by
  simp only [settleStep, apply_ite hideVerbosity]
  rfl

/-- No step that runs no instruction reads the flag or the diagnostic port. -/
theorem runMicro_hideVerbosity (m : Micro) (s : State) :
    runMicro m (hideVerbosity s) = andThen hideVerbosity (runMicro m s) := by
  cases m with
  | reset | boot | rest | illegal | fallback => rfl
  | receive => exact receiveStep_hideVerbosity s
  | candidate => exact candidateStep_hideVerbosity s
  | settle => exact congrArg _ (settleStep_hideVerbosity s)

theorem perform_hideVerbosity (f : Fetched) (s : State) :
    andThen hideVerbosity (perform f (hideVerbosity s)) = andThen hideVerbosity (perform f s) := by
  cases f with
  | instr i => exact exec_hideVerbosity i s
  | micro m =>
    simp only [perform, runMicro_hideVerbosity]
    cases runMicro m s <;> rfl

theorem andThen_hideVerbosity_advance (r : Host.Outcome State Fault Refusal) :
    andThen hideVerbosity (andThen advance r) = andThen advance (andThen hideVerbosity r) := by
  cases r <;> simp

/-- A step's effect outside the flag and the diagnostic port depends on neither. -/
theorem step_hideVerbosity (s : State) :
    andThen hideVerbosity (step (hideVerbosity s)) = andThen hideVerbosity (step s) := by
  simp only [step, andThen_hideVerbosity_advance, fetch_hideVerbosity, quiet_hideVerbosity, perform_hideVerbosity]

@[simp] theorem complete_out_diag (o : Result) (s : State) : (complete o s).out.diag = s.out.diag := by
  rcases complete_cases o s with ⟨_, e⟩ | ⟨_, _, e⟩ | ⟨_, _, _, e⟩ | ⟨_, _, _, e⟩ <;> simp [e]

theorem acceptResponse_out_diag_of_not_verbose {s : State} (hverbose : s.verbose = false) (st : Status) (reg : Byte)
    (data : Half) : (acceptResponse st reg data s).out.diag = s.out.diag := by
  simp [acceptResponse_eq, hverbose]

/-- With the flag 0 no step drives the diagnostic port (rules R145 and R181). -/
theorem StepCase.out_diag_eq_none {s u : State} (h : StepCase s u) (hverbose : s.verbose = false)
    (hquiet : s.out.diag = none) : u.out.diag = none := by
  cases h
  case reset => rfl
  case good => exact (acceptResponse_out_diag_of_not_verbose hverbose ..).trans hquiet
  all_goals simp [bootStep, fallbackStep, hquiet]

theorem csrRead_hideVerbosity (s : State) {n : Idx} (hn : n ≠ 0#3) : csrRead (hideVerbosity s) n = csrRead s n := by
  rw [csrRead, csrRead, if_neg hn, if_neg hn]
  rfl

/-- Settles O45: a step is a function of the state with flag and port hidden; and by the cases of a step, only the echo
comparison drives the port. -/
theorem verbosityChangesOnlyDiagnostics : Obligations.VerbosityChangesOnlyDiagnostics := by
  refine ⟨fun s s' h => ?_, fun s t h hverbose => ?_, fun s n hn => csrRead_hideVerbosity s hn⟩
  · rw [← step_hideVerbosity s, h, step_hideVerbosity s']
  · obtain ⟨u, hc, rfl⟩ := step_cases h
    rw [advance_out]
    exact hc.out_diag_eq_none hverbose rfl

end Sys2Proof.Machine
end

section
/-! Proofs of the statements about reset (70_reset_and_hazards.md, rules R230 and R231): the step with `rst = 1`, and
the RST step after it. -/

namespace Sys2Proof.Machine

/-- With `rst = 1` a step loads the block's reset values, whatever the engine's state (rule R230). -/
theorem step_of_rst {s : State} (hrst : s.env.inp.rst = true) : step s = .next (advance (resetBlock s)) := by
  apply step_of_perform
  rw [fetch_of_rst hrst]
  rfl

/-- Settles O31: the step is the block's reset, whose registers are those of the reset table. -/
theorem resetStepLoadsResetValues : Obligations.ResetStepLoadsResetValues := fun _ hrst => step_of_rst hrst

theorem fetch_of_bootState {s : State} (hrst : s.env.inp.rst = false) (hstate : s.state = .rst) :
    fetch s = .micro .boot := by
  simp [fetch, hrst, hstate]

/-- In RST, without reset, a step configures the reset rate and makes the engine ready (rule R231). -/
theorem step_of_bootState {s : State} (hrst : s.env.inp.rst = false) (hstate : s.state = .rst) :
    step s = .next (advance (bootStep (quiet s))) := by
  apply step_of_perform
  rw [fetch_of_bootState hrst hstate]
  rfl

/-- Settles O33: the step is the boot step on inactive ports, of which only the configure port is driven. -/
theorem rstStepConfiguresResetRate : Obligations.RstStepConfiguresResetRate := fun _ hrst hstate =>
  step_of_bootState hrst hstate

end Sys2Proof.Machine
end

section
/-! Proofs of the statements about the host word and its assembler (30_encoding.md, rules R75, R84 and R85): the rows of
host words as slices, the word of a row put together from its operands, and what decodes to it. -/

namespace Sys2Proof.Machine

/-! ## A TXN word and its operands -/

@[simp] theorem tcField_txnWord (wr tc : Bool) (reg : Byte) (value : Half) : tcField (txnWord wr tc reg value) = tc := by
  simp only [tcField, txnWord, BitVec.getLsbD_append]
  simp

@[simp] theorem regField_txnWord (wr tc : Bool) (reg : Byte) (value : Half) :
    regField (txnWord wr tc reg value) = reg := by
  rw [regField, txnWord, BitVec.extractLsb'_append_eq_of_le le_rfl]
  exact BitVec.extractLsb'_append_eq_right

@[simp] theorem valueField_txnWord (wr tc : Bool) (reg : Byte) (value : Half) :
    valueField (txnWord wr tc reg value) = value :=
  BitVec.extractLsb'_append_eq_right

theorem selects_txnWord (wr tc : Bool) (reg : Byte) (value : Half) :
    (if wr then rowTxnWr else rowTxnRd).selects (txnWord wr tc reg value) = true := by
  cases wr
  · exact Laws.EncodingSelectsRow.txnRd tc reg value
  · exact Laws.EncodingSelectsRow.txnWr tc reg value

/-- The word of a TXN decodes to it, with its operands (rules R74 and R79). -/
theorem decodeHost_txnWord (wr tc : Bool) (reg : Byte) (value : Half) :
    decodeHost (txnWord wr tc reg value) = .ok (if wr then .txnWr tc reg value else .txnRd tc reg value) := by
  have hsel := selects_txnWord wr tc reg value
  cases wr
  · exact decodeHost_eq_txnRd_iff.mpr ⟨hsel, by simp⟩
  · exact decodeHost_eq_txnWr_iff.mpr ⟨hsel, by simp⟩

/-! ## The rows of host words as slices -/

theorem ofBool_getLsbD_eq_extractLsb' {n : Nat} (x : BitVec n) (k : Nat) :
    BitVec.ofBool (x.getLsbD k) = x.extractLsb' k 1 := by
  refine BitVec.eq_of_getLsbD_eq fun i hi => ?_
  obtain rfl : i = 0 := by omega
  simp

/-- A word with OP 1, its W bit and bits 25:24 at 0 is the TXN word of its operands. -/
theorem txnWord_fields {w : Word} (wr : Bool) (hop : opField w = 0x1#4) (hw : w.getLsbD 27 = wr)
    (hres : w.extractLsb' 24 2 = 0#2) : txnWord wr (tcField w) (regField w) (valueField w) = w := by
  rw [txnWord, ← hop, ← hw, ← hres]
  simp only [opField, tcField, regField, valueField, ofBool_getLsbD_eq_extractLsb',
    BitVec.extractLsb'_append_extractLsb'_eq_extractLsb']
  exact BitVec.extractLsb'_eq_self

/-- Where a row's mask is all ones, a word that selects it has the pattern's slice. -/
theorem extractLsb'_of_selects {r : Row} {w : Word} {i len : Nat} (h : r.selects w = true)
    (hmask : r.mask.extractLsb' i len = BitVec.allOnes len) : w.extractLsb' i len = r.pattern.extractLsb' i len := by
  rw [selects_iff] at h
  rw [← h, BitVec.extractLsb'_and, hmask, BitVec.and_allOnes]

theorem rowTxn_selects_iff {w : Word} (wr : Bool) :
    (if wr then rowTxnWr else rowTxnRd).selects w = true
      ↔ opField w = 0x1#4 ∧ w.getLsbD 27 = wr ∧ w.extractLsb' 24 2 = 0#2 := by
  refine ⟨fun h => ⟨?_, getLsbD_27_of_txn wr h, ?_⟩, fun ⟨hop, hw, hres⟩ => ?_⟩
  · exact (extractLsb'_of_selects h (by cases wr <;> decide)).trans (by cases wr <;> decide)
  · exact (extractLsb'_of_selects h (by cases wr <;> decide)).trans (by cases wr <;> decide)
  · rw [← txnWord_fields wr hop hw hres]
    exact selects_txnWord ..

theorem eq_of_rowNegotiate {w : Word} (h : rowNegotiate.selects w = true) : w = 0x20000000#32 := by
  rw [selects_iff] at h
  exact BitVec.and_allOnes.symm.trans h

theorem rowNegotiate_selects_iff {w : Word} :
    rowNegotiate.selects w = true ↔ opField w = 0x2#4 ∧ w.extractLsb' 0 28 = 0#28 := by
  refine ⟨fun h => ?_, fun ⟨hop, hres⟩ => ?_⟩
  · rw [eq_of_rowNegotiate h]
    decide
  · have hw : w = 0x2#4 ++ 0#28 := by
      rw [← hop, ← hres]
      exact (BitVec.extractLsb'_append_extractLsb' (w := 4) (len := 28)).symm
    rw [hw]
    exact Laws.EncodingSelectsRow.negotiate

/-- A word with OP 3 and bits 27:1 at 0 is the SETVERB word of its bit 0. -/
theorem setverbWord_fields {w : Word} (hop : opField w = 0x3#4) (hres : w.extractLsb' 1 27 = 0#27) :
    0x3#4 ++ 0#27 ++ BitVec.ofBool (vField w) = w := by
  rw [← hop, ← hres]
  simp only [opField, vField, ofBool_getLsbD_eq_extractLsb', BitVec.extractLsb'_append_extractLsb'_eq_extractLsb']
  exact BitVec.extractLsb'_eq_self

theorem rowSetverb_selects_iff {w : Word} :
    rowSetverb.selects w = true ↔ opField w = 0x3#4 ∧ w.extractLsb' 1 27 = 0#27 := by
  refine ⟨fun h => ⟨?_, ?_⟩, fun ⟨hop, hres⟩ => ?_⟩
  · exact extractLsb'_of_selects h (by decide)
  · exact extractLsb'_of_selects h (by decide)
  · rw [← setverbWord_fields hop hres]
    exact Laws.EncodingSelectsRow.setverb _

/-- Settles O11: the slices decide which row a word selects; without a row the rejection goes by OP. -/
theorem hostWordByOperationField : Obligations.HostWordByOperationField := by
  intro w op
  have hop : opField w = op := rfl
  have hreject (hTxn : op = 0x1#4 → w.extractLsb' 24 2 ≠ 0#2) (hNeg : op = 0x2#4 → w.extractLsb' 0 28 ≠ 0#28)
      (hVerb : op = 0x3#4 → w.extractLsb' 1 27 ≠ 0#27) : decodeHost w = .rejected (hostRejection w) := by
    have hrow (wr : Bool) : (if wr then rowTxnWr else rowTxnRd).selects w = false := by
      refine Bool.eq_false_iff.mpr fun h => ?_
      obtain ⟨hop, -, hres⟩ := (rowTxn_selects_iff wr).mp h
      exact hTxn hop hres
    refine decodeHost_of_no_row ?_
    simp only [List.forall_mem_cons, List.not_mem_nil, false_imp_iff, implies_true, and_true]
    exact ⟨hrow false, hrow true,
      Bool.eq_false_iff.mpr fun h => hNeg (rowNegotiate_selects_iff.mp h).1 (rowNegotiate_selects_iff.mp h).2,
      Bool.eq_false_iff.mpr fun h => hVerb (rowSetverb_selects_iff.mp h).1 (rowSetverb_selects_iff.mp h).2⟩
  refine ⟨fun h hres hw => ?_, fun h hres hw => ?_, fun h hres => ?_, fun h hres => ?_, fun h hres => ?_,
    fun h hres => ?_, fun h hres => ?_, fun h1 h2 h3 => ?_⟩
  · exact decodeHost_eq_txnRd_iff.mpr ⟨(rowTxn_selects_iff false).mpr ⟨h, hw, hres⟩, rfl, rfl, rfl⟩
  · exact decodeHost_eq_txnWr_iff.mpr ⟨(rowTxn_selects_iff true).mpr ⟨h, hw, hres⟩, rfl, rfl, rfl⟩
  · rw [hreject (fun _ => hres) (by simp [h]) (by simp [h])]
    simp [hostRejection, hop, h]
  · exact decodeHost_eq_negotiate_iff.mpr (rowNegotiate_selects_iff.mpr ⟨h, hres⟩)
  · rw [hreject (by simp [h]) (fun _ => hres) (by simp [h])]
    simp [hostRejection, hop, h]
  · exact decodeHost_eq_setverb_iff.mpr ⟨rowSetverb_selects_iff.mpr ⟨h, hres⟩, rfl⟩
  · rw [hreject (by simp [h]) (by simp [h]) (fun _ => hres)]
    simp [hostRejection, hop, h]
  · rw [hreject (by simp [h1]) (by simp [h2]) (by simp [h3])]
    simp [hostRejection, hop, h1, h2, h3]

/-! ## The assembler -/

/-- The first bits of a TXN word, its operands at 0. -/
def txnBase (wr tc : Bool) : Word := (0x1#4 ++ BitVec.ofBool wr ++ BitVec.ofBool tc ++ 0#2 : Byte).setWidth 32 <<< 24

/-- The assembler's word of a TXN with operands in range is the TXN word of these operands (rule R84). -/
theorem asmTxn_txnBase (wr tc : Bool) {reg value : Nat} (hreg : reg < 256) (hvalue : value < 65536) :
    asmTxn (txnBase wr tc) reg value = some (txnWord wr tc (BitVec.ofNat 8 reg) (BitVec.ofNat 16 value)) := by
  have hjoin (head : Byte) (r : Byte) (v : Half) :
      head ++ r ++ v = head.setWidth 32 <<< 24 ||| r.setWidth 32 <<< 16 ||| v.setWidth 32 := by
    rw [← BitVec.setWidth_eq (head ++ r ++ v), BitVec.setWidth_append_eq_shiftLeft_setWidth_or,
      BitVec.setWidth_append_eq_shiftLeft_setWidth_or, BitVec.shiftLeft_or_distrib, ← BitVec.shiftLeft_add]
  rw [asmTxn, if_pos ⟨hreg, hvalue⟩, txnWord, hjoin, txnBase, BitVec.setWidth_ofNat_of_le_of_lt (by decide) hreg,
    BitVec.setWidth_ofNat_of_le_of_lt (by decide) hvalue]

theorem asmTxn_of_out_of_range (base : Word) {reg value : Nat} (h : 256 ≤ reg ∨ 65536 ≤ value) :
    asmTxn base reg value = none :=
  if_neg (by omega)

/-- What an assembled TXN word decodes to. -/
theorem map_decodeHost_asmTxn (wr tc : Bool) {reg value : Nat} (hreg : reg < 256) (hvalue : value < 65536) :
    (asmTxn (txnBase wr tc) reg value).map decodeHost
      = some (.ok (if wr then .txnWr tc (BitVec.ofNat 8 reg) (BitVec.ofNat 16 value)
          else .txnRd tc (BitVec.ofNat 8 reg) (BitVec.ofNat 16 value))) := by
  rw [asmTxn_txnBase wr tc hreg hvalue, Option.map_some, decodeHost_txnWord]

/-- Settles O16: each TXN form is the word of its first bits and operands; the range check comes before any word. -/
theorem assembledWordsAreTheirCommands : Obligations.AssembledWordsAreTheirCommands := by
  refine ⟨fun reg value hreg hvalue => ?_, fun reg value h => ?_, by decide, by decide, by decide, fun v hv => ?_⟩
  · exact ⟨map_decodeHost_asmTxn false false hreg hvalue, map_decodeHost_asmTxn false true hreg hvalue,
      map_decodeHost_asmTxn true false hreg hvalue, map_decodeHost_asmTxn true true hreg hvalue⟩
  · exact ⟨asmTxn_of_out_of_range _ h, asmTxn_of_out_of_range _ h, asmTxn_of_out_of_range _ h,
      asmTxn_of_out_of_range _ h⟩
  · exact if_neg hv.not_gt

/-- The assembler's plain write with operands in range. -/
theorem assemble_txnWr {reg value : Nat} (hreg : reg < 256) (hvalue : value < 65536) :
    assemble (.txnWr reg value) = some (txnWord true false (BitVec.ofNat 8 reg) (BitVec.ofNat 16 value)) :=
  asmTxn_txnBase true false hreg hvalue

/-- A NOP read with VALUE 0 is `probe`, and `geterr` too (rule R85). -/
theorem expandPseudo_probe (c : Config) :
    expandPseudo c .probe = some [.issue (0x10000000#32 ||| c.nopReg.setWidth 32 <<< 16)] := by
  have hreg : c.nopReg.toNat < 256 := c.nopReg.isLt
  simp [expandPseudo, issueForm, assemble, asmTxn, hreg, BitVec.ofNat_toNat]

/-- A 32-bit write is two writes, the high half first (rule R242). -/
theorem expandPseudo_wr32 (c : Config) {rh rl x : Nat} (hrh : rh < 256) (hrl : rl < 256) (hx : x < 2 ^ 32) :
    expandPseudo c (.wr32 rh rl x)
      = some [.issue (txnWord true false (BitVec.ofNat 8 rh) ((BitVec.ofNat 32 x).extractLsb' 16 16)),
              .issue (txnWord true false (BitVec.ofNat 8 rl) ((BitVec.ofNat 32 x).extractLsb' 0 16))] := by
  have hhigh := assemble_txnWr (value := x / 65536) hrh (by omega)
  have hlow := assemble_txnWr (value := x % 65536) hrl (by omega)
  have hhighHalf : (BitVec.ofNat 32 x).extractLsb' 16 16 = BitVec.ofNat 16 (x / 65536) :=
    BitVec.eq_of_toNat_eq (by simp [Nat.shiftRight_eq_div_pow]; omega)
  have hlowHalf : (BitVec.ofNat 32 x).extractLsb' 0 16 = BitVec.ofNat 16 (x % 65536) :=
    BitVec.eq_of_toNat_eq (by simp)
  rw [expandPseudo, if_pos hx, hhigh, hlow, hhighHalf, hlowHalf]

/-- Settles O17: each expansion is of assembled commands whose operands are in range. -/
theorem pseudoInstructionsExpand : Obligations.PseudoInstructionsExpand := by
  refine ⟨fun c => ⟨expandPseudo_probe c, rfl⟩, fun s => rfl, fun c rh rl x => expandPseudo_wr32 c, fun c v hv => ?_⟩
  simp [expandPseudo, assemble, hv]

/-- Settles O14: each of the twelve words is evaluated by its place's decoder. -/
theorem writtenOutWordsDecode : Obligations.WrittenOutWordsDecode := by
  refine ⟨by decide, by decide, by decide, by decide, by decide, by decide, ?_, ?_, ?_, ?_, ?_, ?_⟩ <;> decide

end Sys2Proof.Machine
end

section
/-! Proofs of the statements about the encodings of packets (30_encoding.md and 40_checksum_framing.md, rules R81, R103
and R109): the kind of a received packet by its fields, and that decoders and encoder undo each other in every place. -/

namespace Sys2Proof.Machine

/-! ## A packet's word and its fields -/

@[simp] theorem regField_wordOfPacket (p : Packet) : regField (wordOfPacket p) = p.b1 :=
  congrArg Packet.b1 (packetOfWord_wordOfPacket p)

/-- Bytes 2 and 3 of a word are its VALUE or DATA field. -/
theorem packetData_packetOfWord (w : Word) : packetData (packetOfWord w) = valueField w :=
  BitVec.extractLsb'_append_extractLsb'_eq_extractLsb' rfl

@[simp] theorem valueField_wordOfPacket (p : Packet) : valueField (wordOfPacket p) = packetData p := by
  rw [← packetData_packetOfWord, packetOfWord_wordOfPacket]

/-- A packet is put together from its two header nibbles, its register and its data. -/
theorem packetOf_fields (p : Packet) : packetOf (highNibble p.b0) (lowNibble p.b0) p.b1 (packetData p) = p := by
  have hhigh : (packetData p).extractLsb' 8 8 = p.b2 := BitVec.extractLsb'_append_eq_left
  have hlow : (packetData p).extractLsb' 0 8 = p.b3 := BitVec.extractLsb'_append_eq_right
  rw [packetOf, nibbles_append, hhigh, hlow]

/-- SEAL leaves a packet alone whose checksum is right. -/
theorem sealPacket_eq_self {p : Packet} (h : highNibble p.b0 = packetChecksum p) : sealPacket p = p := by
  rw [sealPacket, ← h, nibbles_append]

/-- SEAL of a packet with any CHK is the packet with the same other fields and the right CHK. -/
theorem sealPacket_packetOf {p : Packet} (chk : Nibble) (h : highNibble p.b0 = packetChecksum p) :
    sealPacket (packetOf chk (lowNibble p.b0) p.b1 (packetData p)) = p := by
  calc sealPacket (packetOf chk (lowNibble p.b0) p.b1 (packetData p))
      = sealPacket (packetOf (highNibble p.b0) (lowNibble p.b0) p.b1 (packetData p)) :=
        sealPacket_congr (by simp [packetOf]) rfl rfl rfl
    _ = p := by rw [packetOf_fields, sealPacket_eq_self h]

/-! ## The packets the block sends -/

/-- The request packet reads back as the request (rule R81). -/
theorem decodeCommand_requestPacket (c : Config) (reg : Byte) (value : Half) (w : Bool) :
    decodeCommand c (wordOfPacket (requestPacket c reg value w))
      = .ok (if w then .cmdWr reg value else .cmdRd reg value) := by
  have hdata : packetData (requestPacket c reg value w) = value :=
    BitVec.extractLsb'_append_extractLsb'
  simp only [decodeCommand, packetOfWord_wordOfPacket, regField_wordOfPacket, valueField_wordOfPacket, hdata]
  simp only [requestPacket, highNibble_encodePacket, lowNibble_encodePacket, if_true]
  cases w
  · exact if_pos rfl
  · have hne : BitVec.ofBool true ++ c.cmdLow ≠ 0#1 ++ c.cmdLow := by
      generalize c.cmdLow = low
      revert low
      decide
    exact (if_neg hne).trans (if_pos rfl)

/-- What reads back as a request has the right CHK and the request's header (rules R71 and R81). -/
theorem decodeCommand_ok {c : Config} {w : Word} {i : Instr} (h : decodeCommand c w = .ok i) :
    highNibble (packetOfWord w).b0 = packetChecksum (packetOfWord w)
    ∧ ∃ wr, lowNibble (packetOfWord w).b0 = BitVec.ofBool wr ++ c.cmdLow
      ∧ i = if wr then .cmdWr (regField w) (valueField w) else .cmdRd (regField w) (valueField w) := by
  simp only [decodeCommand] at h
  split_ifs at h with hchk hrd hwr
  · exact ⟨hchk, false, hrd, (Decoded.ok.inj h).symm⟩
  · exact ⟨hchk, true, hwr, (Decoded.ok.inj h).symm⟩

/-- A packet with the right CHK and a request's header is the request packet of its fields. -/
theorem requestPacket_fields {c : Config} {p : Packet} {wr : Bool} (hchk : highNibble p.b0 = packetChecksum p)
    (hlow : lowNibble p.b0 = BitVec.ofBool wr ++ c.cmdLow) : requestPacket c p.b1 (packetData p) wr = p := by
  rw [requestPacket, encodePacket_eq_sealPacket, ← hlow]
  exact sealPacket_packetOf 0#4 hchk

/-- Settles O3: ENCODE is SEAL of the header nibble, whatever the marker. -/
theorem encodeIsSealForEitherMarker : Obligations.EncodeIsSealForEitherMarker := by
  intro reg value w lr
  have hlow : lowNibble (0#4 ++ (BitVec.ofBool w ++ 0#3)) = lowNibble ((BitVec.ofBool w).setWidth 8 <<< 3) := by
    cases w <;> decide
  exact ⟨(encodePacket_eq_sealPacket ..).trans (sealPacket_congr hlow rfl rfl rfl), rfl⟩

/-! ## The kinds of received packet -/

/-- The header nibble of a response holds its three fields, in every layout that fits (rule R72). -/
theorem responseLow_fields {c : Config} (hc : c.layoutWf) (ce rsv : Bool) (status : Status) :
    (responseLow c ce rsv status).getLsbD (c.ceBit - 24) = ce
    ∧ (responseLow c ce rsv status).getLsbD (c.rsvBit - 24) = rsv
    ∧ (responseLow c ce rsv status).extractLsb' (c.statusLsb - 24) 2 = status := by
  rcases layout_cases hc with ⟨h1, h2⟩ | ⟨h1, h2⟩ | ⟨h1, h2⟩ | ⟨h1, h2⟩ | ⟨h1, h2⟩ | ⟨h1, h2⟩ <;>
    simp only [responseLow, Config.rsvBit, h1, h2] <;> revert ce rsv status <;> decide

/-- A response packet reads back as its fields. -/
theorem responseOf_packetOf {c : Config} (hc : c.layoutWf) (chk : Nibble) (r : Response) :
    responseOf c (packetOf chk (responseLow c r.ce r.rsv r.status) r.reg r.data) = r := by
  have hlow : lowNibble (packetOf chk (responseLow c r.ce r.rsv r.status) r.reg r.data).b0
      = responseLow c r.ce r.rsv r.status := lowNibble_append _ _
  obtain ⟨hce, hrsv, hstatus⟩ := responseLow_fields hc r.ce r.rsv r.status
  rw [responseOf, hlow, hce, hrsv, hstatus, packetData_packetOf]
  rfl

/-- The three header fields are the whole header nibble, in every layout that fits (rule R72). -/
theorem responseLow_responseOf {c : Config} (hc : c.layoutWf) (p : Packet) :
    responseLow c (responseOf c p).ce (responseOf c p).rsv (responseOf c p).status = lowNibble p.b0 := by
  simp only [responseOf]
  generalize lowNibble p.b0 = n
  rcases layout_cases hc with ⟨h1, h2⟩ | ⟨h1, h2⟩ | ⟨h1, h2⟩ | ⟨h1, h2⟩ | ⟨h1, h2⟩ | ⟨h1, h2⟩ <;>
    simp only [responseLow, Config.rsvBit, h1, h2] <;> revert n <;> decide

/-- The kind of a packet whose checksum is wrong (rule R81). -/
theorem classify_of_checksum_ne {c : Config} {p : Packet} (h : highNibble p.b0 ≠ packetChecksum p) :
    classify c p = .rspBad (highNibble p.b0) (lowNibble p.b0) p.b1 (packetData p) := by
  simp only [classify, decodePacket_of_checksum_ne h]

/-- The kind of a valid packet, by its CE and STATUS (rule R81). -/
def kindOf (r : Response) : Instr :=
  if r.ce then .rspCe r.rsv r.status r.reg r.data
  else if r.status = 0#2 then .rspOk r.rsv r.reg r.data
  else if r.status = 1#2 then .rspXe r.rsv r.reg r.data
  else if r.status = 2#2 then .rspAea r.rsv r.reg r.data
  else .rspCp r.rsv r.reg r.data

/-- `kindOf` is what the response decoder answers for a packet DECODE accepts. -/
theorem classify_of_some {c : Config} {p : Packet} {r : Response} (h : decodePacket c p = some r) :
    classify c p = kindOf r := by
  simp only [classify, h]
  rfl

/-- The kinds of the valid packets, one for each row. -/
theorem kindOf_cases (r : Response) :
    (r.ce = true ∧ kindOf r = .rspCe r.rsv r.status r.reg r.data)
    ∨ (r.ce = false ∧ r.status = 0#2 ∧ kindOf r = .rspOk r.rsv r.reg r.data)
    ∨ (r.ce = false ∧ r.status = 1#2 ∧ kindOf r = .rspXe r.rsv r.reg r.data)
    ∨ (r.ce = false ∧ r.status = 2#2 ∧ kindOf r = .rspAea r.rsv r.reg r.data)
    ∨ (r.ce = false ∧ r.status = 3#2 ∧ kindOf r = .rspCp r.rsv r.reg r.data) := by
  cases hce : r.ce
  · rcases status_cases r.status with h | h | h | h <;> simp [kindOf, hce, h]
  · simp [kindOf, hce]

/-- A valid packet's kind is encoded as the response word of its fields. -/
theorem encode_kindOf (c : Config) (r : Response) :
    encode c (kindOf r) = responseWord c r.ce r.rsv r.status r.reg r.data := by
  rcases kindOf_cases r with ⟨hce, h⟩ | ⟨hce, hst, h⟩ | ⟨hce, hst, h⟩ | ⟨hce, hst, h⟩ | ⟨hce, hst, h⟩ <;>
    simp [encode, *]

/-- A valid packet's kind is a response, and as an operand-checked term always well-formed. -/
theorem kindOf_channel_wellFormed (r : Response) :
    (kindOf r).channel = .response ∧ (kindOf r).wellFormed = true := by
  rcases kindOf_cases r with ⟨_, h⟩ | ⟨_, _, h⟩ | ⟨_, _, h⟩ | ⟨_, _, h⟩ | ⟨_, _, h⟩ <;>
    simp [h, Instr.channel, Instr.wellFormed]

/-- A response word decodes to the kind of its fields. -/
theorem decode_responseWord {c : Config} (hc : c.layoutWf) (r : Response) :
    decode c .response (responseWord c r.ce r.rsv r.status r.reg r.data) = .ok (kindOf r) := by
  rw [decode, responseWord, packetOfWord_wordOfPacket, classify_of_some (decodePacket_sealPacket ..),
    responseOf_packetOf hc]

/-- A received word encodes back from its kind, which is a well-formed response. -/
theorem encode_classify {c : Config} (hc : c.layoutWf) (w : Word) :
    encode c (classify c (packetOfWord w)) = w ∧ (classify c (packetOfWord w)).channel = .response
    ∧ (classify c (packetOfWord w)).wellFormed = true := by
  by_cases hchk : highNibble (packetOfWord w).b0 = packetChecksum (packetOfWord w)
  · rw [classify_of_some (decodePacket_of_checksum_eq hchk), encode_kindOf, responseWord, responseLow_responseOf hc]
    refine ⟨?_, kindOf_channel_wellFormed _⟩
    exact (congrArg wordOfPacket (sealPacket_packetOf 0#4 hchk)).trans (wordOfPacket_packetOfWord w)
  · rw [classify_of_checksum_ne hchk, encode, packetOf_fields, wordOfPacket_packetOfWord]
    exact ⟨rfl, rfl, by simpa [Instr.wellFormed, packetOf_fields] using hchk⟩

/-! ## Decoder and encoder in every place -/

theorem vField_setverbWord (v : Bool) : vField (0x3#4 ++ 0#27 ++ BitVec.ofBool v) = v := by
  revert v; decide

/-- Settles O12: by the instruction's place; a TXN word, a request packet and a response word each read back. -/
theorem decodeOfEncodeIsTheInstruction : Obligations.DecodeOfEncodeIsTheInstruction := by
  intro c i hc hwf
  cases i with
  | txnRd tc reg value => exact decodeHost_txnWord false tc reg value
  | txnWr tc reg value => exact decodeHost_txnWord true tc reg value
  | negotiate => exact decodeHost_eq_negotiate_iff.mpr Laws.EncodingSelectsRow.negotiate
  | setverb v => exact decodeHost_eq_setverb_iff.mpr ⟨Laws.EncodingSelectsRow.setverb v, (vField_setverbWord v).symm⟩
  | cmdRd reg value => exact decodeCommand_requestPacket c reg value false
  | cmdWr reg value => exact decodeCommand_requestPacket c reg value true
  | rspBad chk low reg data =>
    have hchk : highNibble (packetOf chk low reg data).b0 ≠ packetChecksum (packetOf chk low reg data) := by
      simpa [Instr.wellFormed, packetOf] using hwf
    rw [Instr.channel, encode, decode, packetOfWord_wordOfPacket, classify_of_checksum_ne hchk, packetData_packetOf]
    simp [packetOf]
  | rspCe rsv status reg data => exact decode_responseWord hc ⟨true, rsv, status, reg, data⟩
  | rspOk rsv reg data => exact decode_responseWord hc ⟨false, rsv, 0#2, reg, data⟩
  | rspXe rsv reg data => exact decode_responseWord hc ⟨false, rsv, 1#2, reg, data⟩
  | rspAea rsv reg data => exact decode_responseWord hc ⟨false, rsv, 2#2, reg, data⟩
  | rspCp rsv reg data => exact decode_responseWord hc ⟨false, rsv, 3#2, reg, data⟩

/-- A host word encodes back from the command it decodes to. -/
theorem encode_decodeHost (c : Config) {w : Word} {i : Instr} (h : decodeHost w = .ok i) :
    encode c i = w ∧ i.channel = .host ∧ i.wellFormed = true := by
  have htxn (wr : Bool) (hsel : (if wr then rowTxnWr else rowTxnRd).selects w = true) :
      txnWord wr (tcField w) (regField w) (valueField w) = w := by
    obtain ⟨hop, hw, hres⟩ := (rowTxn_selects_iff wr).mp hsel
    exact txnWord_fields wr hop hw hres
  rcases decodeHost_ok h with ⟨hsel, rfl⟩ | ⟨hsel, rfl⟩ | ⟨hsel, rfl⟩ | ⟨hsel, rfl⟩
  · exact ⟨htxn false hsel, rfl, rfl⟩
  · exact ⟨htxn true hsel, rfl, rfl⟩
  · exact ⟨(eq_of_rowNegotiate hsel).symm, rfl, rfl⟩
  · obtain ⟨hop, hres⟩ := rowSetverb_selects_iff.mp hsel
    exact ⟨setverbWord_fields hop hres, rfl, rfl⟩

/-- A sent word encodes back from the request it reads back as. -/
theorem encode_decodeCommand {c : Config} {w : Word} {i : Instr} (h : decodeCommand c w = .ok i) :
    encode c i = w ∧ i.channel = .command ∧ i.wellFormed = true := by
  obtain ⟨hchk, wr, hlow, rfl⟩ := decodeCommand_ok h
  have hword : wordOfPacket (requestPacket c (regField w) (valueField w) wr) = w := by
    have := congrArg wordOfPacket (requestPacket_fields hchk hlow)
    rwa [packetData_packetOfWord, wordOfPacket_packetOfWord] at this
  cases wr
  · exact ⟨hword, rfl, rfl⟩
  · exact ⟨hword, rfl, rfl⟩

/-- Settles O13: by the place, whose decoder keeps every bit of the word. -/
theorem encodeOfDecodeIsTheWord : Obligations.EncodeOfDecodeIsTheWord := by
  intro c ch w i hc h
  cases ch with
  | host => exact encode_decodeHost c h
  | command => exact encode_decodeCommand h
  | response =>
    obtain rfl := Decoded.ok.inj h
    exact encode_classify hc w

/-! ## The kinds by mask and pattern -/

theorem highNibble_packetOfWord (w : Word) : highNibble (packetOfWord w).b0 = w.extractLsb' 28 4 :=
  extractLsb'_extractLsb'_add w (by decide)

theorem lowNibble_packetOfWord (w : Word) : lowNibble (packetOfWord w).b0 = w.extractLsb' 24 4 :=
  extractLsb'_extractLsb'_add w (by decide)

/-- The fields of a received word at the default positions (the spec's decision D8). -/
theorem responseOf_packetOfWord (w : Word) :
    responseOf Config.default (packetOfWord w)
      = { ce := w.getLsbD 27, rsv := w.getLsbD 26, status := w.extractLsb' 24 2, reg := regField w,
          data := valueField w } := by
  have hce : (packetOfWord w).b0.getLsbD 3 = w.getLsbD 27 := by simp [packetOfWord]
  have hrsv : (packetOfWord w).b0.getLsbD 2 = w.getLsbD 26 := by simp [packetOfWord]
  have hstatus : (packetOfWord w).b0.extractLsb' 0 2 = w.extractLsb' 24 2 := extractLsb'_extractLsb'_add w (by decide)
  have hdata : (packetOfWord w).b2 ++ (packetOfWord w).b3 = valueField w := packetData_packetOfWord w
  rw [responseOf_default, hce, hrsv, hstatus, hdata]
  rfl

/-- The mask of the rows with CE = 0 keeps CE and STATUS. -/
theorem ce_status_of_mask {w pattern : Word} {st : Status} (h : w &&& 0x0B000000#32 = pattern)
    (hce : pattern.getLsbD 27 = false) (hst : pattern.extractLsb' 24 2 = st) :
    w.getLsbD 27 = false ∧ w.extractLsb' 24 2 = st := by
  have hsel := (selects_iff ⟨pattern, 0x0B000000#32⟩ w).mpr h
  exact ⟨(getLsbD_of_selects hsel (by simp only; decide)).trans hce,
    (extractLsb'_of_selects hsel (by simp only; decide)).trans hst⟩

/-- Settles O9: a wrong checksum by the first clause of the kinds, a right one by the bits the mask keeps; a request
packet by its row and by reading it back. -/
theorem packetKindByMaskAndChecksum : Obligations.PacketKindByMaskAndChecksum := by
  refine ⟨?_, fun reg value w => ⟨?_, decodeCommand_requestPacket ..⟩⟩
  · intro w p good k rsv reg data
    have hgood : good ↔ highNibble p.b0 = packetChecksum p := by rw [highNibble_packetOfWord]; rfl
    have hk (h : good) : k = kindOf (responseOf Config.default p) :=
      classify_of_some (decodePacket_of_checksum_eq (hgood.mp h))
    rw [responseOf_packetOfWord] at hk
    refine ⟨fun h => ?_, fun h hm => ?_, fun h hm => ?_, fun h hm => ?_, fun h hm => ?_, fun h hm => ?_⟩
    · rw [← highNibble_packetOfWord, ← lowNibble_packetOfWord]
      exact (classify_of_checksum_ne (mt hgood.mpr h)).trans (by rw [packetData_packetOfWord]; rfl)
    · have hce := getLsbD_of_selects (k := 27) ((selects_iff ⟨0x08000000#32, 0x08000000#32⟩ w).mpr hm) (by decide)
      rw [hk h, hce]
      rfl
    all_goals
      obtain ⟨hce, hst⟩ := ce_status_of_mask hm (by decide) rfl
      rw [hk h, hce, hst]
      rfl
  · cases w
    · exact (selects_iff ..).mp (Laws.EncodingSelectsRow.cmdRd reg value)
    · exact (selects_iff ..).mp (Laws.EncodingSelectsRow.cmdWr reg value)

end Sys2Proof.Machine
end

section
/-! Proofs of the statements about error detection (40_checksum_framing.md, rule R110): the syndrome of a word, which is
linear and 0 exactly for a valid packet, and how many words have syndrome 0. -/

namespace Sys2Proof.Machine

/-! ## The syndrome -/

/-- How the CHK of a packet's word differs from its checksum. -/
def syndrome (w : Word) : Nibble := highNibble (packetOfWord w).b0 ^^^ packetChecksum (packetOfWord w)

/-- A packet is valid exactly when its syndrome is 0 (rule R107). -/
theorem decodePacket_eq_none_iff (c : Config) (w : Word) : decodePacket c (packetOfWord w) = none ↔ syndrome w ≠ 0#4 := by
  rw [syndrome, Ne, BitVec.xor_eq_zero_iff]
  refine ⟨fun h heq => ?_, decodePacket_of_checksum_ne⟩
  simp [decodePacket_of_checksum_eq heq] at h

theorem decodePacket_isSome_iff (c : Config) (w : Word) :
    (decodePacket c (packetOfWord w)).isSome = true ↔ syndrome w = 0#4 := by
  rw [Option.isSome_iff_ne_none, Ne, decodePacket_eq_none_iff, not_not]

/-- The syndrome is linear: it does not depend on the packet what an error does to it. -/
theorem syndrome_xor (w e : Word) : syndrome (w ^^^ e) = syndrome w ^^^ syndrome e := by
  have hhigh : highNibble (packetOfWord (w ^^^ e)).b0 =
      highNibble (packetOfWord w).b0 ^^^ highNibble (packetOfWord e).b0 := by
    rw [← highNibble_xor]
    exact congrArg highNibble BitVec.extractLsb'_xor
  rw [syndrome, hhigh, packetChecksum_packetOfWord_xor, syndrome, syndrome]
  ac_rfl

/-- Bit `k` of a word stands for bit `k % 4` of the syndrome. -/
theorem syndrome_oneBit : ∀ k < 32, syndrome (1#32 <<< k) = 1#4 <<< (k % 4) := by
  decide

/-- The checksum of a word is the fold of its seven covered nibbles (rule R101). -/
theorem packetChecksum_packetOfWord (w : Word) :
    packetChecksum (packetOfWord w)
      = w.extractLsb' 24 4 ^^^ w.extractLsb' 20 4 ^^^ w.extractLsb' 16 4 ^^^ w.extractLsb' 12 4 ^^^ w.extractLsb' 8 4
        ^^^ w.extractLsb' 4 4 ^^^ w.extractLsb' 0 4 := by
  rw [packetChecksum, bip4_eq_xor_nibbles]
  simp only [packetOfWord, lowNibble, highNibble, extractLsb'_extractLsb'_add _ (show 0 + 4 ≤ 8 by decide),
    extractLsb'_extractLsb'_add _ (show 4 + 4 ≤ 8 by decide)]

theorem syndrome_eq_zero_iff (w : Word) : syndrome w = 0#4 ↔
    w.extractLsb' 28 4 = w.extractLsb' 24 4 ^^^ w.extractLsb' 20 4 ^^^ w.extractLsb' 16 4 ^^^ w.extractLsb' 12 4
      ^^^ w.extractLsb' 8 4 ^^^ w.extractLsb' 4 4 ^^^ w.extractLsb' 0 4 := by
  rw [syndrome, BitVec.xor_eq_zero_iff, highNibble_packetOfWord, packetChecksum_packetOfWord]

/-- Settles O7: an error is detected by its own syndrome, and a single bit's is not 0. -/
theorem errorDetectedExactlyWhenFoldDiffers : Obligations.ErrorDetectedExactlyWhenFoldDiffers := by
  intro c p hp
  have hdetected (e : Word) : decodePacket c (packetOfWord (p ^^^ e)) = none ↔ syndrome e ≠ 0#4 := by
    rw [decodePacket_eq_none_iff, syndrome_xor, (decodePacket_isSome_iff c p).mp hp, BitVec.zero_xor]
  refine ⟨fun e => (hdetected e).trans (not_congr (syndrome_eq_zero_iff e)), fun k hk => (hdetected _).mpr ?_⟩
  have hbit : ∀ i < 4, 1#4 <<< i ≠ 0#4 := by decide
  rw [syndrome_oneBit k hk]
  exact hbit _ (Nat.mod_lt k (by decide))

/-! ## Counting -/

theorem card_bitVec_ne_zero (n : Nat) : Nat.card { x : BitVec n // x ≠ 0#n } = 2 ^ n - 1 :=
  calc Nat.card { x : BitVec n // x ≠ 0#n }
    _ = Fintype.card { x : BitVec n // x ≠ 0#n } := Nat.card_eq_fintype_card
    _ = Fintype.card (BitVec n) - 1 := Set.card_ne_eq _
    _ = 2 ^ n - 1 := by rw [Fintype.card_congr BitVec.equivFin.toEquiv, Fintype.card_fin]

/-- The words whose upper bits are a function of their lower ones are as many as there are lower parts; without 0, one
less. -/
theorem card_upper_eq {m n : Nat} (f : BitVec n → BitVec m) (hf : f 0#n = 0#m) :
    Nat.card { e : BitVec (m + n) // e ≠ 0#(m + n) ∧ e.extractLsb' n m = f (e.extractLsb' 0 n) } = 2 ^ n - 1 := by
  have hjoin (e : BitVec (m + n)) (he : e.extractLsb' n m = f (e.extractLsb' 0 n)) :
      f (e.extractLsb' 0 n) ++ e.extractLsb' 0 n = e := by
    rw [← he, BitVec.extractLsb'_append_extractLsb']
  have hzero (e : BitVec (m + n)) (he : e.extractLsb' n m = f (e.extractLsb' 0 n)) (h : e.extractLsb' 0 n = 0#n) :
      e = 0#(m + n) := by
    rw [← hjoin e he, h, hf]
    exact BitVec.zero_append_zero
  rw [← card_bitVec_ne_zero n]
  refine Nat.card_eq_of_bijective (fun e => ⟨e.1.extractLsb' 0 n, mt (hzero e.1 e.2.2) e.2.1⟩) ⟨?_, ?_⟩
  · rintro ⟨e, _, he⟩ ⟨e', _, he'⟩ h
    rw [Subtype.mk.injEq] at h ⊢
    rw [← hjoin e he, ← hjoin e' he', h]
  · rintro ⟨x, hx⟩
    have hlow : (f x ++ x).extractLsb' 0 n = x := BitVec.extractLsb'_append_eq_right
    have hupper : (f x ++ x).extractLsb' n m = f x := BitVec.extractLsb'_append_eq_left
    refine ⟨⟨f x ++ x, fun h => hx ?_, by rw [hupper, hlow]⟩, Subtype.ext hlow⟩
    rw [← hlow, h]
    simp

/-- The checksum that the 28 covered bits ask for. -/
def coveredFold (x : BitVec 28) : Nibble :=
  x.extractLsb' 24 4 ^^^ x.extractLsb' 20 4 ^^^ x.extractLsb' 16 4 ^^^ x.extractLsb' 12 4 ^^^ x.extractLsb' 8 4
    ^^^ x.extractLsb' 4 4 ^^^ x.extractLsb' 0 4

/-- The header nibble that makes the checksum of the 24 bits after it 0. -/
def tailFold (y : BitVec 24) : Nibble :=
  y.extractLsb' 20 4 ^^^ y.extractLsb' 16 4 ^^^ y.extractLsb' 12 4 ^^^ y.extractLsb' 8 4 ^^^ y.extractLsb' 4 4
    ^^^ y.extractLsb' 0 4

theorem syndrome_eq_zero_iff_coveredFold (e : Word) :
    syndrome e = 0#4 ↔ e.extractLsb' 28 4 = coveredFold (e.extractLsb' 0 28) := by
  simp (disch := decide) only [syndrome_eq_zero_iff, coveredFold, BitVec.extractLsb'_extractLsb'_of_le]

theorem syndrome_eq_zero_iff_tailFold (e : Word) :
    syndrome e = 0#4 ∧ e.extractLsb' 28 4 = 0#4 ↔ e.extractLsb' 24 8 = 0#4 ++ tailFold (e.extractLsb' 0 24) := by
  have hhead : e.extractLsb' 24 8 = e.extractLsb' 28 4 ++ e.extractLsb' 24 4 :=
    (BitVec.extractLsb'_append_extractLsb'_eq_extractLsb' (start₁ := 24) (len₁ := 4) (len₂ := 4) rfl).symm
  have hsplit (a b c : Nibble) : a ++ b = 0#4 ++ c ↔ a = 0#4 ∧ b = c := by
    refine ⟨fun h => ⟨?_, ?_⟩, fun ⟨ha, hb⟩ => by rw [ha, hb]⟩
    · simpa using congrArg highNibble h
    · simpa using congrArg lowNibble h
  have hfold : syndrome e = 0#4 ↔ e.extractLsb' 28 4 = e.extractLsb' 24 4 ^^^ tailFold (e.extractLsb' 0 24) := by
    simp (disch := decide) only [syndrome_eq_zero_iff, tailFold, BitVec.extractLsb'_extractLsb'_of_le, BitVec.xor_assoc]
  rw [hhead, hsplit, hfold, and_comm, and_congr_right_iff]
  intro hchk
  rw [hchk, eq_comm, BitVec.xor_eq_zero_iff]

/-- An error of two bits goes undetected exactly when both stand for the same bit of the syndrome. -/
theorem syndrome_twoBits {i j : Fin 32} :
    syndrome (1#32 <<< i.val ^^^ 1#32 <<< j.val) = 0#4 ↔ i.val % 4 = j.val % 4 := by
  have hinj : ∀ a < 4, ∀ b < 4, 1#4 <<< a = 1#4 <<< b ↔ a = b := by decide
  rw [syndrome_xor, syndrome_oneBit _ i.isLt, syndrome_oneBit _ j.isLt, BitVec.xor_eq_zero_iff]
  exact hinj _ (Nat.mod_lt _ (by decide)) _ (Nat.mod_lt _ (by decide))

theorem twoBits_ne_zero {i j : Fin 32} (h : i < j) : 1#32 <<< i.val ^^^ 1#32 <<< j.val ≠ 0#32 := by
  intro heq
  have hbit := congrArg (·.getLsbD i.val) (BitVec.xor_eq_zero_iff.mp heq)
  have hlt : i.val < j.val := h
  simp [hlt, -BitVec.getLsbD_eq_getElem] at hbit

/-- Settles O8: undetected patterns are those of syndrome 0, counted by their free bits; of the two-bit patterns, those
whose positions agree modulo 4. -/
theorem undetectedErrorCounts : Obligations.UndetectedErrorCounts := by
  unfold Obligations.UndetectedErrorCounts
  intro missed
  have hmissed (e : Word) : missed e ↔ e ≠ 0#32 ∧ syndrome e = 0#4 := and_congr_right' (decodePacket_isSome_iff _ e)
  refine ⟨?_, ?_, ?_, ?_⟩
  · simp only [hmissed, syndrome_eq_zero_iff_coveredFold]
    exact card_upper_eq coveredFold (by decide)
  · simp only [hmissed, and_assoc, syndrome_eq_zero_iff_tailFold]
    exact card_upper_eq (fun y => 0#4 ++ tailFold y) (by decide)
  · have hpair (ij : Fin 32 × Fin 32) : ij.1 < ij.2 ∧ missed (1#32 <<< ij.1.val ^^^ 1#32 <<< ij.2.val)
        ↔ ij.1 < ij.2 ∧ ij.1.val % 4 = ij.2.val % 4 := by
      rw [hmissed, syndrome_twoBits]
      exact and_congr_right fun hlt => and_iff_right (twoBits_ne_zero hlt)
    rw [Nat.card_congr (Equiv.subtypeEquivRight hpair), Nat.card_eq_fintype_card]
    decide +kernel
  · rw [Nat.card_eq_fintype_card]
    decide +kernel

end Sys2Proof.Machine
end

section
/-! Proofs of the statements about the CSR port (10_state.md, rules R33 to R39): each register is the concatenation of
its fields, taken apart again at their bit positions, and no step reads the selector. -/

namespace Sys2Proof.Machine

theorem csrRead_0 (s : State) : csrRead s 0#3 = csrCtrl s := rfl
theorem csrRead_1 (s : State) : csrRead s 1#3 = csrBaud s := rfl
theorem csrRead_2 (s : State) : csrRead s 2#3 = csrLastRsp s := rfl
theorem csrRead_3 (s : State) : csrRead s 3#3 = csrResult s := rfl
theorem csrRead_4 (s : State) : csrRead s 4#3 = csrEngStat s := rfl

/-- Settles O42: a slice of a concatenation at a field's position is the field; the unused selectors and the code tables
by definition. -/
theorem csrFieldLayout : Obligations.CsrFieldLayout := by
  intro s
  refine ⟨⟨?_, ?_⟩, ⟨?_, ?_, ?_, ?_⟩, ⟨?_, ?_, ?_, ?_, ?_⟩, ⟨?_, ?_, ?_, ?_, ?_, ?_⟩, ⟨?_, ?_, ?_, ?_, ?_, ?_, ?_⟩,
    rfl, rfl, rfl, rfl, rfl, rfl, rfl⟩
  all_goals
    simp (disch := decide) only [csrRead_0, csrRead_1, csrRead_2, csrRead_3, csrRead_4, csrCtrl, csrBaud, csrLastRsp,
      csrResult, csrEngStat, BitVec.extractLsb'_append_eq_of_le, BitVec.extractLsb'_append_eq_of_add_le,
      BitVec.extractLsb'_eq_self, BitVec.getLsbD_append, BitVec.getLsbD_ofBool, BitVec.getLsbD_zero, Nat.reduceLT,
      Nat.reduceSub, decide_true, Bool.true_and, if_true, if_false]

/-- Settles O32: the reset registers, and what the RST step makes of them; the world's next inputs change no CSR. -/
theorem csrValuesAfterReset : Obligations.CsrValuesAfterReset :=
  ⟨by decide, _, step_of_bootState rfl rfl, by decide, by decide, by decide, by decide, by decide, by decide, rfl⟩

/-- Settles O29: a step reads its inputs only in what it runs, and that is the same for every selector. -/
theorem csrReadChangesNothing : Obligations.CsrReadChangesNothing := fun s n =>
  ⟨step_withInputs { s.env.inp with csrSel := n } s, rfl⟩

end Sys2Proof.Machine
end

section
/-! Proofs of the statements about what one step does in a given state (41_transaction.md and 42_control.md): what the
step runs, by the engine's state, and the waits, the RX step, the CHECK step and the deadline. -/

namespace Sys2Proof.Machine

/-! ## What a step runs, by the engine's state -/

theorem fetch_of_command {s : State} {i : Instr} (hrst : s.env.inp.rst = false) (hstate : s.state = .idle)
    (hvalid : s.env.inp.cmdValid = true) (hw : decodeHost s.env.inp.cmdWord = .ok i) : fetch s = .instr i := by
  simp [fetch, hrst, hstate, hvalid, decode, hw]

theorem fetch_of_rest {s : State} (hrst : s.env.inp.rst = false) (hstate : s.state = .idle)
    (hvalid : s.env.inp.cmdValid = false) : fetch s = .micro .rest := by
  simp [fetch, hrst, hstate, hvalid]

theorem fetch_of_tx {s : State} (hrst : s.env.inp.rst = false) (hstate : s.state = .tx) :
    fetch s = .instr (latchedRequest s) := by
  simp [fetch, hrst, hstate]

theorem fetch_of_check {s : State} (hrst : s.env.inp.rst = false) (hstate : s.state = .check) :
    fetch s = .instr (classify s.cfg s.rxbuf) := by
  simp [fetch, hrst, hstate]

theorem step_of_fetch_instr {s : State} {i : Instr} (h : fetch s = .instr i) :
    step s = andThen advance (exec i (quiet s)) := by
  rw [step, h, perform]

/-- Settles O26: in each of the three places the decoded instruction is what the step fetches. -/
theorem stepRunsTheDecodedInstruction : Obligations.StepRunsTheDecodedInstruction := by
  intro s i hrst
  refine ⟨fun hstate hvalid hw => ?_, fun hstate hw => ?_, fun hstate hw => ?_⟩
  · exact step_of_fetch_instr (fetch_of_command hrst hstate hvalid hw)
  · have hi := (decodeCommand_requestPacket s.cfg s.reqReg s.reqVal s.reqW).symm.trans hw
    exact step_of_fetch_instr ((fetch_of_tx hrst hstate).trans (congrArg _ (Decoded.ok.inj hi)))
  · have hi : classify s.cfg s.rxbuf = i := by simpa [decode] using hw
    exact step_of_fetch_instr ((fetch_of_check hrst hstate).trans (congrArg _ hi))

/-! ## The waits -/

/-- A step that runs a wait leaves everything but the ports. -/
theorem step_of_wait {s : State} (h : perform (fetch s) (quiet s) = .next (quiet s)) :
    step s = .next (advance (quiet s)) :=
  step_of_perform h

/-- Before the deadline, with no byte, an RX step waits (rule R141). -/
theorem receiveStep_of_empty {s : State} (hempty : s.line.rxq = [])
    (hdeadline : elapsed (nowMs s) s.t0 < deadline s.cfg s.reqTc) : receiveStep s = .next s := by
  rw [receiveStep, not_expired_of_lt hdeadline, hempty]
  rfl

/-- Before the deadline a waiting byte is taken, and the fourth leads to CHECK (rule R141). -/
theorem receiveStep_of_byte {s : State} {b : Byte} {rest : List Byte} (hrxq : s.line.rxq = b :: rest)
    (hdeadline : elapsed (nowMs s) s.t0 < deadline s.cfg s.reqTc) (hcount : s.rxCnt.toNat ≤ 3) :
    receiveStep s = .next { rxTake b rest s with state := if s.rxCnt = 3#3 then .check else s.state } := by
  have hroom : ¬ 3#3 < s.rxCnt := by simpa [BitVec.lt_def] using hcount
  simp only [receiveStep, not_expired_of_lt hdeadline, hrxq, Bool.false_eq_true, if_false, if_neg hroom]
  split <;> rfl

/-- Before `T_SETTLE`, NEG_SETTLE waits (rule R173). -/
theorem settleStep_of_unsettled {s : State} (h : nowMs s - s.tCfg < s.cfg.tSettle) : settleStep s = s :=
  if_neg fun hsettled => absurd ((settled_iff ..).mp hsettled) (BitVec.not_le.mpr h)

/-- Settles O30: each of the three waits leaves the state as it is. -/
theorem waitingStepsChangeNothing : Obligations.WaitingStepsChangeNothing := by
  rintro s hrst (⟨hstate, hvalid⟩ | ⟨hstate, hempty, hdeadline⟩ | ⟨hstate, hsettle⟩) <;> apply step_of_perform
  · rw [fetch_of_rest hrst hstate hvalid]
    rfl
  · rw [fetch_of_rx hrst hstate]
    exact receiveStep_of_empty (s := quiet s) hempty hdeadline
  · rw [fetch_of_negSettle hrst hstate]
    exact congrArg _ (settleStep_of_unsettled (s := quiet s) hsettle)

/-! ## The RX step with a byte -/

theorem putByte_eq (p : Packet) (k : Idx) (b : Byte) :
    putByte p k b = {
      b0 := if k = 0#3 then b else p.b0
      b1 := if k = 1#3 then b else p.b1
      b2 := if k = 2#3 then b else p.b2
      b3 := if k = 3#3 then b else p.b3 } := by
  unfold putByte
  split_ifs <;> simp_all

/-- Before the deadline the RX step takes the head byte. -/
theorem step_of_rx_byte {s : State} {b : Byte} {rest : List Byte} (hrst : s.env.inp.rst = false)
    (hstate : s.state = .rx) (hrxq : s.line.rxq = b :: rest)
    (hdeadline : elapsed (nowMs s) s.t0 < deadline s.cfg s.reqTc) (hcount : s.rxCnt.toNat ≤ 3) :
    step s = .next (advance { rxTake b rest (quiet s) with state := if s.rxCnt = 3#3 then .check else .rx }) := by
  apply step_of_perform
  rw [fetch_of_rx hrst hstate, ← hstate]
  exact receiveStep_of_byte (s := quiet s) hrxq hdeadline hcount

/-- Settles O34: the step takes the byte, whose place in the buffer is the count's. -/
theorem rxStepTakesOneByte : Obligations.RxStepTakesOneByte := by
  intro s b rest hrst hstate hrxq hdeadline hcount
  rw [step_of_rx_byte hrst hstate hrxq hdeadline hcount, rxTake, putByte_eq]
  rfl

/-! ## The CHECK step -/

/-- A wrong checksum completes as TXN_CHECKSUM (rule R143). -/
theorem step_of_check_none {s : State} (hrst : s.env.inp.rst = false) (hstate : s.state = .check)
    (hd : decodePacket s.cfg s.rxbuf = none) :
    step s = .next (advance (complete (.plain .txnChecksum) (quiet s))) := by
  rw [step_of_fetch_instr (fetch_of_check hrst hstate)]
  rcases exec_classify s.cfg s.rxbuf (quiet s) with ⟨_, h⟩ | ⟨r, hr, _⟩ | ⟨r, hr, _⟩
  · rw [h, andThen_next]
  all_goals simp [hd] at hr

/-- A communication error completes as TXN_CE (rule R144). -/
theorem step_of_check_ce {s : State} {r : Response} (hrst : s.env.inp.rst = false) (hstate : s.state = .check)
    (hd : decodePacket s.cfg s.rxbuf = some r) (hce : r.ce = true) :
    step s = .next (advance (complete (.plain .txnCe) (quiet s))) := by
  rw [step_of_fetch_instr (fetch_of_check hrst hstate)]
  rcases exec_classify s.cfg s.rxbuf (quiet s) with ⟨hr, _⟩ | ⟨r', hr, hce', h⟩ | ⟨r', hr, hce', h⟩
  · simp [hd] at hr
  · rw [h, andThen_next]
  · rw [hd, Option.some.injEq] at hr
    simp [← hr, hce] at hce'

/-- A response with CE = 0 is accepted (rule R145). -/
theorem step_of_check_good {s : State} {r : Response} (hrst : s.env.inp.rst = false) (hstate : s.state = .check)
    (hd : decodePacket s.cfg s.rxbuf = some r) (hce : r.ce = false) :
    step s = .next (advance (acceptResponse r.status r.reg r.data (quiet s))) := by
  rw [step_of_fetch_instr (fetch_of_check hrst hstate)]
  rcases exec_classify s.cfg s.rxbuf (quiet s) with ⟨hr, _⟩ | ⟨r', hr, hce', h⟩ | ⟨r', hr, hce', h⟩
  · simp [hd] at hr
  · rw [hd, Option.some.injEq] at hr
    simp [← hr, hce] at hce'
  · rw [hd, Option.some.injEq] at hr
    rw [h, andThen_next, hr]


/-- The all-zero packet is valid and reads as zeros, in every layout (rule R247). -/
theorem decodePacket_zero (c : Config) :
    decodePacket c { b0 := 0#8, b1 := 0#8, b2 := 0#8, b3 := 0#8 }
      = some { ce := false, rsv := false, status := 0#2, reg := 0#8, data := 0#16 } := by
  have hlow : lowNibble 0#8 = 0#4 := by decide
  rw [decodePacket_of_checksum_eq (by decide), responseOf, hlow]
  simp [packetData]

/-- A valid response with CE = 0 and status 0 accepts the candidate of its probe (rules R145 and R174). -/
theorem step_of_probe_accepted {s : State} {r : Response} (hrst : s.env.inp.rst = false) (hstate : s.state = .check)
    (horigin : s.origin = .neg) (hd : decodePacket s.cfg s.rxbuf = some r) (hce : r.ce = false)
    (hstatus : r.status = 0#2) :
    step s = .next (advance { s with
      last := { valid := true, status := 0#2, reg := r.reg, data := r.data }
      baudOk := true
      accIdx := s.negIdx
      result := { kind := .negOk, status := 0#2, reg := r.reg, data := r.data, echoMm := r.reg != s.reqReg }
      state := .idle
      out := { Outputs.quiet with
        done := true
        diag := if r.reg ≠ s.reqReg ∧ s.verbose = true then some (0x1#4, s.reqReg ++ r.reg) else none } }) := by
  have haccept := (acceptResponse_eq 0#2 r.reg r.data (quiet s)).trans (complete_of_probeSucceeds horigin rfl)
  rw [step_of_check_good hrst hstate hd hce, hstatus, haccept]
  rfl

/-- Settles O40: the packet is accepted with status 0, which accepts the candidate. -/
theorem allZeroLinePassesTheProbe : Obligations.AllZeroLinePassesTheProbe := by
  intro s hrst hstate horigin _ hrxbuf
  refine ⟨_, step_of_probe_accepted hrst hstate horigin (hrxbuf ▸ decodePacket_zero s.cfg) rfl rfl, ?_⟩
  simp +contextual

/-- At the positions of the spec's decision D8 the fields are those of the default parameters. -/
theorem responseOf_of_d8 {c : Config} (hce : c.ceBit = 27) (hstatus : c.statusLsb = 24) (p : Packet) :
    responseOf c p = { ce := p.b0.getLsbD 3, rsv := p.b0.getLsbD 2, status := p.b0.extractLsb' 0 2, reg := p.b1,
                       data := p.b2 ++ p.b3 } := by
  rw [← responseOf_default, responseOf, Config.rsvBit, hce, hstatus]
  rfl

/-- Settles O41: DECODE says which of the two ends of a host transaction the step is. -/
theorem checkStepReportsThePacketKind : Obligations.CheckStepReportsThePacketKind := by
  intro s hrst hstate horigin hceBit hstatusLsb
  refine ⟨fun hchk => ?_, fun hchk hce st hst => ?_⟩
  · rw [step_of_check_none hrst hstate (decodePacket_of_checksum_ne hchk),
      complete_of_host _ ((quiet_origin s).trans horigin)]
    rfl
  · have hd := (decodePacket_of_checksum_eq (c := s.cfg) hchk).trans
      (congrArg some (responseOf_of_d8 hceBit hstatusLsb s.rxbuf))
    have haccept := (acceptResponse_eq st s.rxbuf.b1 (s.rxbuf.b2 ++ s.rxbuf.b3) (quiet s)).trans
      (complete_of_host _ horigin)
    rw [step_of_check_good hrst hstate hd hce, hst, haccept]
    rfl

/-! ## The deadline of a transaction -/

/-- No completion leaves the engine waiting or checking. -/
theorem complete_state_ne (o : Result) (s : State) : (complete o s).state ≠ .rx ∧ (complete o s).state ≠ .check := by
  rcases complete_cases o s with ⟨_, e⟩ | ⟨_, _, e⟩ | ⟨_, _, _, e⟩ | ⟨_, _, _, e⟩ <;> simp [e]

/-- With the default parameter an RX step goes on exactly before the deadline (rules R141 and R142). -/
theorem StepCase.goes_on_iff {s u : State} (h : StepCase s u) (hrst : s.env.inp.rst = false) (hstate : s.state = .rx)
    (hexclusive : s.cfg.deadlineInclusive = false) :
    u.state = .rx ∨ u.state = .check ↔ elapsed (nowMs s) s.t0 < deadline s.cfg s.reqTc := by
  have hbefore (he : expired s.cfg s.reqTc (elapsed (nowMs s) s.t0) (!s.line.rxq.isEmpty) = false) :
      elapsed (nowMs s) s.t0 < deadline s.cfg s.reqTc := by
    rwa [expired_exclusive hexclusive, decide_eq_false_iff_not, BitVec.not_le] at he
  cases h
  case timeout he =>
    rw [expired_exclusive hexclusive, decide_eq_true_iff] at he
    simp [complete_state_ne, BitVec.not_lt.mpr he]
  case poll hs he _ => simp [hs, hbefore he]
  case takeLast he _ _ => simp [hbefore he]
  case take hs he _ _ => simp [hs, hbefore he]
  case reset hr => simp [hrst] at hr
  all_goals simp_all

/-- The elapsed time since a sample is the clock's advance since then, modulo 2^32 (rule R147). -/
theorem elapsed_toNat {s : State} {a : Nat} (ha : a ≤ s.line.time) :
    (elapsed (nowMs s) (BitVec.ofNat 32 a)).toNat = (s.line.time - a) % 2 ^ 32 := by
  simp only [elapsed, nowMs, BitVec.toNat_sub, BitVec.toNat_ofNat]
  omega

/-- Settles O37: the unsigned difference; and an RX step goes on exactly before the deadline, as the unwrapped clock
counts it. -/
theorem elapsedTimeIsModular : Obligations.ElapsedTimeIsModular := by
  refine ⟨fun now since => ?_, fun since d => ?_, fun s t a h hrst hstate hexclusive ha ht0 => ?_⟩
  · simp only [elapsed, BitVec.toNat_sub]
    omega
  · rw [elapsed, BitVec.add_comm, BitVec.add_sub_cancel]
  · obtain ⟨u, hc, rfl⟩ := step_cases h
    have hgoes := hc.goes_on_iff hrst hstate hexclusive
    simp only [quiet_t0, nowMs_quiet, quiet_cfg, quiet_reqTc, ht0, BitVec.lt_def, elapsed_toNat ha] at hgoes
    rw [advance_state, hgoes]
    change (¬ _ < (deadline s.cfg s.reqTc).toNat → (deadline s.cfg s.reqTc).toNat ≤ _)
      ∧ (_ → (_ ↔ _ < (deadline s.cfg s.reqTc).toNat))
    have hmod := Nat.mod_le (s.line.time - a) (2 ^ 32)
    refine ⟨fun h => by omega, fun h => by rw [Nat.mod_eq_of_lt h]⟩

/-- A host transaction under way, with its deadline class and room in the buffer for the next byte. -/
structure HostTransaction (c : Config) (tc : Bool) (s : State) : Prop where
  cfg : s.cfg = c
  reqTc : s.reqTc = tc
  origin : s.origin = .host
  state : s.state = .tx ∨ s.state = .rx ∨ s.state = .check
  room : s.state = .rx → s.rxCnt.toNat ≤ 3

/-- A step of a host transaction goes on with it or ends it. -/
theorem StepCase.hostTransaction {c : Config} {tc : Bool} {s u : State} (h : StepCase s u)
    (hrst : s.env.inp.rst = false) (ht : HostTransaction c tc s) : HostTransaction c tc u ∨ u.state = .idle := by
  have hcfg := h.cfg_eq.trans ht.cfg
  cases h
  case reset hr => simp [hrst] at hr
  case send => exact .inl ⟨hcfg, ht.reqTc, ht.origin, .inr (.inl rfl), fun _ => Nat.zero_le _⟩
  case timeout => exact .inr (by rw [complete_of_host _ ht.origin, finish_state])
  case checksum => exact .inr (by rw [complete_of_host _ ht.origin, finish_state])
  case commError => exact .inr (by rw [complete_of_host _ ht.origin, finish_state])
  case good => exact .inr (by simp [acceptResponse, complete_of_host, ht.origin])
  case poll => exact .inl ht
  case takeLast => exact .inl ⟨hcfg, ht.reqTc, ht.origin, .inr (.inr rfl), by simp⟩
  case take hs _ _ hcount =>
    exact .inl ⟨hcfg, ht.reqTc, ht.origin, .inr (.inl hs), fun _ => by simp; omega⟩
  all_goals
    have := ht.state
    simp_all

theorem HostTransaction.quiet {c : Config} {tc : Bool} {s : State} (h : HostTransaction c tc s) :
    HostTransaction c tc (quiet s) := { h with }

theorem HostTransaction.advance {c : Config} {tc : Bool} {s : State} (h : HostTransaction c tc s) :
    HostTransaction c tc (advance s) := by
  obtain ⟨hcfg, hreqTc, horigin, hstate, hroom⟩ := h
  exact ⟨by simpa, by simpa, by simpa, by simpa, by simpa⟩

/-- The step that accepts a TXN word (rule R130). -/
theorem step_of_txn {s : State} (w tc : Bool) (reg : Byte) (value : Half) (hrst : s.env.inp.rst = false)
    (hstate : s.state = .idle) (hvalid : s.env.inp.cmdValid = true)
    (hword : s.env.inp.cmdWord = encode s.cfg (if w then .txnWr tc reg value else .txnRd tc reg value)) :
    step s = .next (advance (acceptTxn w tc reg value (quiet s))) := by
  have hdecode := decodeHost_txnWord w tc reg value
  have hencode : s.env.inp.cmdWord = txnWord w tc reg value := by rw [hword]; cases w <;> rfl
  rw [← hencode] at hdecode
  rw [step_of_fetch_instr (fetch_of_command hrst hstate hvalid hdecode)]
  cases w <;> rfl

/-- From the accept step of a TXN word the transaction is under way until the engine is in IDLE again. -/
theorem hostTransaction_of_runsTo {s : State} {w tc : Bool} {reg : Byte} {value : Half} (hrst : s.env.inp.rst = false)
    (hstate : s.state = .idle) (hvalid : s.env.inp.cmdValid = true)
    (hword : s.env.inp.cmdWord = encode s.cfg (if w then .txnWr tc reg value else .txnRd tc reg value)) {k : Nat}
    {u : State} (hbusy : ∀ i v, 1 ≤ i → i ≤ k → RunsTo i s v → v.env.inp.rst = false ∧ v.state ≠ .idle)
    (hrun : RunsTo (k + 1) s u) (hu : u.state ≠ .idle) : HostTransaction s.cfg tc u := by
  induction k generalizing u with
  | zero =>
    obtain ⟨v, hv, hstep⟩ := RunsTo.last hrun
    cases hv
    rw [step_of_txn w tc reg value hrst hstate hvalid hword] at hstep
    cases hstep
    exact HostTransaction.advance ⟨rfl, rfl, rfl, .inl rfl, by simp⟩
  | succ k ih =>
    obtain ⟨v, hv, hstep⟩ := RunsTo.last hrun
    obtain ⟨hvrst, hvidle⟩ := hbusy (k + 1) v (by omega) le_rfl hv
    have ht := ih (fun i v h1 hk => hbusy i v h1 (by omega)) hv hvidle
    obtain ⟨x, hc, rfl⟩ := step_cases hstep
    rcases hc.hostTransaction hvrst ht.quiet with h | h
    · exact h.advance
    · exact absurd ((advance_state x).trans h) hu

/-- Settles O36: the parameters by evaluation; and the latched class of the transaction under way is the command's, so
its RX steps have its deadline. -/
theorem deadlinesAndCandidateList : Obligations.DeadlinesAndCandidateList := by
  refine ⟨rfl, rfl, rfl, rfl, rfl, by simp [Config.default], fun s => ⟨_, rfl, rfl, rfl⟩, ?_⟩
  intro s u w tc reg value k hexclusive hrst hstate hvalid hword hbusy hrun hurst hu
  have ht := hostTransaction_of_runsTo hrst hstate hvalid hword hbusy hrun (by simp [hu])
  have hdeadline : (if tc then s.cfg.tMon else s.cfg.tGen) = deadline u.cfg u.reqTc := by rw [ht.cfg, ht.reqTc]; rfl
  have hexclusive' : u.cfg.deadlineInclusive = false := ht.cfg ▸ hexclusive
  rw [hdeadline]
  by_cases hlt : nowMs u - u.t0 < deadline u.cfg u.reqTc
  · have hgoes : ∃ t, step u = .next t := by
      cases hrxq : u.line.rxq with
      | nil => exact ⟨_, step_of_wait (by rw [fetch_of_rx hurst hu]; exact receiveStep_of_empty (s := quiet u) hrxq hlt)⟩
      | cons b rest => exact ⟨_, step_of_rx_byte hurst hu hrxq hlt (ht.room hu)⟩
    obtain ⟨t, hstep⟩ := hgoes
    obtain ⟨x, hc, rfl⟩ := step_cases hstep
    refine ⟨_, hstep, fun _ => ?_, fun hge => absurd hlt (BitVec.not_lt.mpr hge)⟩
    rw [advance_state]
    exact (hc.goes_on_iff hurst hu hexclusive').mpr hlt
  · have hstep := step_of_rx_timeout hurst hu hexclusive' (BitVec.not_lt.mp hlt)
    refine ⟨_, hstep, fun h => absurd h hlt, fun _ => ?_⟩
    simp [complete_of_host _ ((quiet_origin u).trans ht.origin)]

end Sys2Proof.Machine
end

section
/-! Proofs of the statements about the registers and ports over every step (10_state.md, rules R25 to R32 and R41 to
R43): what a completion and an accepted response write of each, and then each statement by the cases of a step. -/

namespace Sys2Proof.Machine

/-! ## What the shared operations leave -/

@[simp] theorem complete_last (o : Result) (s : State) : (complete o s).last = s.last := by
  rcases complete_cases o s with ⟨_, e⟩ | ⟨_, _, e⟩ | ⟨_, _, _, e⟩ | ⟨_, _, _, e⟩ <;> simp [e]

@[simp] theorem complete_baud (o : Result) (s : State) : (complete o s).baud = s.baud := by
  rcases complete_cases o s with ⟨_, e⟩ | ⟨_, _, e⟩ | ⟨_, _, _, e⟩ | ⟨_, _, _, e⟩ <;> simp [e]

@[simp] theorem complete_out_rxPop (o : Result) (s : State) : (complete o s).out.rxPop = s.out.rxPop := by
  rcases complete_cases o s with ⟨_, e⟩ | ⟨_, _, e⟩ | ⟨_, _, _, e⟩ | ⟨_, _, _, e⟩ <;> simp [e]

@[simp] theorem complete_out_cfg (o : Result) (s : State) : (complete o s).out.cfg = s.out.cfg := by
  rcases complete_cases o s with ⟨_, e⟩ | ⟨_, _, e⟩ | ⟨_, _, _, e⟩ | ⟨_, _, _, e⟩ <;> simp [e]

@[simp] theorem acceptResponse_last (st : Status) (reg : Byte) (data : Half) (s : State) :
    (acceptResponse st reg data s).last = { valid := true, status := st, reg := reg, data := data } := by
  simp [acceptResponse]

@[simp] theorem acceptResponse_baud (st : Status) (reg : Byte) (data : Half) (s : State) :
    (acceptResponse st reg data s).baud = s.baud := by
  simp [acceptResponse]

@[simp] theorem acceptResponse_out_rxPop (st : Status) (reg : Byte) (data : Half) (s : State) :
    (acceptResponse st reg data s).out.rxPop = s.out.rxPop := by
  simp [acceptResponse]

@[simp] theorem acceptResponse_out_cfg (st : Status) (reg : Byte) (data : Half) (s : State) :
    (acceptResponse st reg data s).out.cfg = s.out.cfg := by
  simp [acceptResponse]

@[simp] theorem settleStep_line (s : State) : (settleStep s).line = s.line := by unfold settleStep; split <;> rfl
@[simp] theorem settleStep_baud (s : State) : (settleStep s).baud = s.baud := by unfold settleStep; split <;> rfl
@[simp] theorem settleStep_last (s : State) : (settleStep s).last = s.last := by unfold settleStep; split <;> rfl
@[simp] theorem settleStep_result (s : State) : (settleStep s).result = s.result := by unfold settleStep; split <;> rfl
@[simp] theorem settleStep_accIdx (s : State) : (settleStep s).accIdx = s.accIdx := by unfold settleStep; split <;> rfl
@[simp] theorem settleStep_negIdx (s : State) : (settleStep s).negIdx = s.negIdx := by unfold settleStep; split <;> rfl

@[simp] theorem resetBlock_out (s : State) : (resetBlock s).out = .quiet := rfl
@[simp] theorem resetBlock_line (s : State) : (resetBlock s).line = s.line := rfl

@[simp] theorem bootStep_state (s : State) : (bootStep s).state = .idle := rfl
@[simp] theorem bootStep_line (s : State) : (bootStep s).line = { s.line with rate := s.cfg.baudReset } := rfl
@[simp] theorem bootStep_out (s : State) : (bootStep s).out = { s.out with cfg := some s.cfg.baudReset } := rfl
@[simp] theorem bootStep_last (s : State) : (bootStep s).last = s.last := rfl
@[simp] theorem bootStep_result (s : State) : (bootStep s).result = s.result := rfl
@[simp] theorem bootStep_accIdx (s : State) : (bootStep s).accIdx = s.accIdx := rfl
@[simp] theorem bootStep_negIdx (s : State) : (bootStep s).negIdx = s.negIdx := rfl

@[simp] theorem fallbackStep_state (s : State) : (fallbackStep s).state = .idle := rfl
@[simp] theorem fallbackStep_line (s : State) :
    (fallbackStep s).line = { s.line with rate := s.cfg.baudFallback } := rfl
@[simp] theorem fallbackStep_out (s : State) :
    (fallbackStep s).out = { s.out with cfg := some s.cfg.baudFallback, done := true } := rfl
@[simp] theorem fallbackStep_last (s : State) : (fallbackStep s).last = s.last := rfl
@[simp] theorem fallbackStep_result (s : State) : (fallbackStep s).result = .plain .negFail := rfl
@[simp] theorem fallbackStep_accIdx (s : State) : (fallbackStep s).accIdx = 7#3 := rfl
@[simp] theorem fallbackStep_negIdx (s : State) : (fallbackStep s).negIdx = s.negIdx := rfl

/-! ## The transport ports -/

/-- Settles O43: by the cases of a step, each of which drives at most one transport port. -/
theorem atMostOneTransportEvent : Obligations.AtMostOneTransportEvent := by
  intro s t h
  obtain ⟨u, hc, rfl⟩ := step_cases h
  rw [advance_out]
  cases hc <;> simp [transportEvents, Outputs.quiet]

/-- A step configures a rate, in one of three states, or leaves `S.baud` and the transport's rate (rule R30). -/
theorem StepCase.configures {s u : State} (h : StepCase s u) (hrst : s.env.inp.rst = false)
    (hquiet : s.out.cfg = none) :
    (u.out.cfg = none ∧ u.baud = s.baud ∧ u.line.rate = s.line.rate)
    ∨ ∃ b, u.out.cfg = some b ∧ u.baud = b ∧ u.line.rate = b
      ∧ (s.state = .rst ∧ b = s.cfg.baudReset ∨ s.state = .negCfg ∧ s.cfg.baudList[s.negIdx.toNat]? = some b
        ∨ s.state = .negFallback ∧ b = s.cfg.baudFallback) := by
  cases h
  case reset hr => simp [hrst] at hr
  case boot hs => exact .inr ⟨_, rfl, rfl, rfl, .inl ⟨hs, rfl⟩⟩
  case candidate b _ hs hb => exact .inr ⟨b, rfl, rfl, rfl, .inr (.inl ⟨hs, hb⟩)⟩
  case fallback hs => exact .inr ⟨_, rfl, rfl, rfl, .inr (.inr ⟨hs, rfl⟩)⟩
  all_goals exact .inl (by simp [hquiet])

/-- Settles O50: a step configures and says so at the port, or leaves both rates. -/
theorem rateFollowsConfigure : Obligations.RateFollowsConfigure := by
  intro s t h
  obtain ⟨u, hc, rfl⟩ := step_cases h
  refine ⟨(advance_cfg u).trans hc.cfg_eq, fun hrst => ?_⟩
  rw [advance_out, advance_baud, advance_rate]
  rcases hc.configures hrst rfl with ⟨hnone, hbaud, hrate⟩ | ⟨b, hsome, hbaud, hrate, hstate⟩
  · exact ⟨fun b hb => by simp [hnone] at hb, fun _ => ⟨hbaud, hrate⟩⟩
  · refine ⟨fun b' hb' => ?_, fun hnone => by simp [hsome] at hnone⟩
    obtain rfl : b = b' := by simpa [hsome] using hb'
    exact ⟨hbaud, hrate, hstate⟩

/-! ## Outcomes -/

/-- A completion raises `done`, goes to IDLE and records the outcome, or goes on with the negotiation and records
nothing. -/
theorem complete_done_cases (o : Result) (s : State) :
    ((complete o s).out.done = true ∧ (complete o s).state = .idle
        ∧ ((complete o s).result.kind = o.kind ∨ (complete o s).result.kind = .negOk))
    ∨ ((complete o s).out.done = s.out.done ∧ (complete o s).state ≠ .idle ∧ (complete o s).result = s.result) := by
  rcases complete_cases o s with ⟨_, e⟩ | ⟨_, _, e⟩ | ⟨_, _, _, e⟩ | ⟨_, _, _, e⟩ <;> simp [e]

/-- The states a command can complete in. -/
abbrev canComplete (st : EngState) : Prop := st = .idle ∨ st = .rx ∨ st = .check ∨ st = .negFallback

/-- `u` ends a command that could end in `s`, or keeps the outcome of `s` and does not enter IDLE but from RST. -/
def EndsOrKeeps (s u : State) : Prop :=
  (u.out.done = true ∧ u.state = .idle ∧ u.result.kind ≠ .none ∧ canComplete s.state)
  ∨ (u.out.done = false ∧ u.result = s.result ∧ (u.state = .idle → s.state = .idle ∨ s.state = .rst))

/-- A completion with a named kind, after whatever leaves `done` and the outcome alone. -/
theorem complete_endsOrKeeps {o : Result} {s v : State} (ho : o.kind ≠ .none) (hst : canComplete s.state)
    (hdone : v.out.done = false) (hres : v.result = s.result) : EndsOrKeeps s (complete o v) := by
  rcases complete_done_cases o v with ⟨hd, hs, hk⟩ | ⟨hd, hs, hr⟩
  · exact .inl ⟨hd, hs, by rcases hk with hk | hk <;> simp [hk, ho], hst⟩
  · exact .inr ⟨hd.trans hdone, hr.trans hres, fun h => absurd h hs⟩

theorem StepCase.endsOrKeeps {s u : State} (h : StepCase s u) (hrst : s.env.inp.rst = false)
    (hquiet : s.out.done = false) : EndsOrKeeps s u := by
  cases h
  case reset hr => simp [hrst] at hr
  case timeout hs _ => exact complete_endsOrKeeps (by simp) (by simp [canComplete, hs]) hquiet rfl
  case checksum hs _ => exact complete_endsOrKeeps (by simp) (by simp [canComplete, hs]) hquiet rfl
  case commError hs _ _ => exact complete_endsOrKeeps (by simp) (by simp [canComplete, hs]) hquiet rfl
  case good hs _ _ => exact complete_endsOrKeeps (by simp) (by simp [canComplete, hs]) (by simpa) (by simp)
  case setverb hs _ _ => exact .inl (by simp [canComplete, hs])
  case illegal hs _ _ => exact .inl (by simp [canComplete, hs])
  case fallback hs => exact .inl (by simp [canComplete, hs])
  case settle hs =>
    refine .inr ⟨by simpa, by simp, ?_⟩
    unfold settleStep
    split <;> simp [hs]
  all_goals exact .inr (by simp_all)

/-- Settles O44: by whether the step raises `done`. -/
theorem doneExactlyWhenOutcomeIsWritten : Obligations.DoneExactlyWhenOutcomeIsWritten := by
  intro s t h hrst
  obtain ⟨u, hc, rfl⟩ := step_cases h
  simp only [advance_out, advance_result, advance_state]
  rcases hc.endsOrKeeps hrst rfl with ⟨hd, hs, hk, hst⟩ | ⟨hd, hr, hidle⟩
  · exact ⟨by simp [hd], fun _ => ⟨hs, hk, hst⟩, fun _ _ _ => hd⟩
  · exact ⟨fun _ => hr, by simp [hd], fun h1 h2 h3 => absurd (hidle h2) (not_or.mpr ⟨h1, h3⟩)⟩

/-! ## The diagnostic port and the cache -/

@[simp] theorem acceptResponse_out_diag (st : Status) (reg : Byte) (data : Half) (s : State) :
    (acceptResponse st reg data s).out.diag
      = if reg ≠ s.reqReg ∧ s.verbose = true then some (0x1#4, s.reqReg ++ reg) else s.out.diag := by
  rw [acceptResponse_eq, complete_out_diag]

/-- No step drives the diagnostic port but the CHECK step of a response with CE = 0 (rule R215). -/
theorem StepCase.diag_eq_none {s u : State} (h : StepCase s u) (hquiet : s.out.diag = none)
    (hgood : ¬ (s.env.inp.rst = false ∧ s.state = .check ∧ ∃ r, decodePacket s.cfg s.rxbuf = some r ∧ r.ce = false)) :
    u.out.diag = none := by
  cases h
  case good r hr hs hd hce => exact absurd ⟨hr, hs, r, hd, hce⟩ hgood
  all_goals simp [hquiet, Outputs.quiet]

/-- The CHECK step of a response with CE = 0 accepts the response. -/
theorem StepCase.eq_acceptResponse {s u : State} (h : StepCase s u) (hrst : s.env.inp.rst = false)
    (hstate : s.state = .check) {r : Response} (hd : decodePacket s.cfg s.rxbuf = some r) (hce : r.ce = false) :
    u = acceptResponse r.status r.reg r.data s := by
  cases h <;> simp_all

/-- Settles O46: outside the CHECK step of a response with CE = 0 the port is inactive; there the echo and the flag
decide. -/
theorem diagnosticExactlyOnEchoMismatch : Obligations.DiagnosticExactlyOnEchoMismatch := by
  intro s t h code info
  obtain ⟨u, hc, rfl⟩ := step_cases h
  rw [advance_out]
  by_cases hgood : s.env.inp.rst = false ∧ s.state = .check ∧ ∃ r, decodePacket s.cfg s.rxbuf = some r ∧ r.ce = false
  · obtain ⟨hrst, hstate, r, hd, hce⟩ := hgood
    obtain rfl := hc.eq_acceptResponse hrst hstate hd hce
    have hport : (acceptResponse r.status r.reg r.data (quiet s)).out.diag
        = if r.reg ≠ s.reqReg ∧ s.verbose = true then some (0x1#4, s.reqReg ++ r.reg) else none :=
      acceptResponse_out_diag ..
    rw [hport]
    split_ifs with hdiag
    · refine ⟨fun h => ?_, ?_⟩
      · cases h
        exact ⟨hrst, hstate, hdiag.2, rfl, r, hd, hce, hdiag.1, rfl⟩
      · rintro ⟨-, -, -, rfl, r', hd', -, -, rfl⟩
        obtain rfl := Option.some.inj (hd.symm.trans hd')
        rfl
    · refine ⟨nofun, ?_⟩
      rintro ⟨-, -, hverbose, -, r', hd', -, hreg, -⟩
      obtain rfl := Option.some.inj (hd.symm.trans hd')
      exact absurd ⟨hreg, hverbose⟩ hdiag
  · rw [hc.diag_eq_none rfl hgood]
    simp only [reduceCtorEq, false_iff]
    rintro ⟨hrst, hstate, -, -, r, hd, hce, -⟩
    exact hgood ⟨hrst, hstate, r, hd, hce⟩

/-- No step outside reset writes the cache but the CHECK step of a response with CE = 0 (rule R28). -/
theorem StepCase.last_eq {s u : State} (h : StepCase s u) (hrst : s.env.inp.rst = false)
    (hgood : ¬ (s.state = .check ∧ ∃ r, decodePacket s.cfg s.rxbuf = some r ∧ r.ce = false)) : u.last = s.last := by
  cases h
  case reset hr => simp [hrst] at hr
  case good r _ hs hd hce => exact absurd ⟨hs, r, hd, hce⟩ hgood
  all_goals simp

/-- Settles O47: the CHECK step of a response with CE = 0 replaces the cache, and every other step keeps it. -/
theorem cacheWrittenOnlyByDecode : Obligations.CacheWrittenOnlyByDecode := by
  intro s t h hrst
  obtain ⟨u, hc, rfl⟩ := step_cases h
  rw [advance_last]
  refine ⟨fun r hstate hd hce => ?_, fun hother => ?_, fun hvalid => ?_, by rw [← advance_last u]; rfl⟩
  · rw [hc.eq_acceptResponse hrst hstate hd hce, acceptResponse_last]
  · refine hc.last_eq hrst fun ⟨hstate, r, hd, hce⟩ => ?_
    simp_all
  · by_cases hgood : s.state = .check ∧ ∃ r, decodePacket s.cfg s.rxbuf = some r ∧ r.ce = false
    · obtain ⟨hstate, r, hd, hce⟩ := hgood
      rw [hc.eq_acceptResponse hrst hstate hd hce, acceptResponse_last]
    · rw [hc.last_eq hrst hgood]
      exact hvalid

/-! ## The candidate index -/

/-- What a step does to the candidate index: the next candidate after a failed probe, the first for a NEGOTIATE, or
none, when `acc_idx` may say that the candidate is accepted or that none is. -/
inductive CandidateMove (s u : State) : Prop where
  | next (horigin : s.origin = .neg) (hstate : s.state = .rx ∨ s.state = .check)
      (hleft : s.negIdx.toNat + 1 < s.cfg.nBaud) (hu : u.state = .negCfg) (hidx : u.negIdx = s.negIdx + 1#3) (hacc : u.accIdx = s.accIdx)
  | first (hstate : s.state = .idle) (hword : s.env.inp.cmdWord = 0x20000000#32) (hu : u.state = .negCfg)
      (hidx : u.negIdx = 0#3) (hacc : u.accIdx = 7#3)
  | stay (hu : u.state ≠ .negCfg) (hidx : u.negIdx = s.negIdx)
      (hacc : u.accIdx = s.accIdx ∨ u.accIdx = 7#3 ∨ (u.accIdx = s.negIdx ∧ u.state = .idle ∧ u.result.kind = .negOk))

/-- A completion, after whatever leaves the negotiation's registers alone. -/
theorem complete_candidateMove {s v : State} (o : Result) (hstate : s.state = .rx ∨ s.state = .check)
    (horigin : v.origin = s.origin) (hcfg : v.cfg = s.cfg) (hidx : v.negIdx = s.negIdx) (hacc : v.accIdx = s.accIdx) :
    CandidateMove s (complete o v) := by
  rcases complete_cases o v with ⟨_, e⟩ | ⟨_, _, e⟩ | ⟨hneg, _, hleft, e⟩ | ⟨_, _, _, e⟩ <;> rw [e]
  · exact .stay (by simp) hidx (.inl hacc)
  · exact .stay (by simp) hidx (.inr (.inr ⟨hidx, rfl, rfl⟩))
  · exact .next (horigin ▸ hneg) hstate (hidx ▸ hcfg ▸ hleft) rfl (congrArg (· + 1#3) hidx) hacc
  · exact .stay (by simp) hidx (.inl hacc)

theorem StepCase.candidateMove {s u : State} (h : StepCase s u) (hrst : s.env.inp.rst = false) : CandidateMove s u := by
  cases h
  case reset hr => simp [hrst] at hr
  case negotiate hs _ hw => exact .first hs (eq_of_rowNegotiate hw) rfl rfl rfl
  case timeout hs _ => exact complete_candidateMove _ (.inl hs) rfl rfl rfl rfl
  case checksum hs _ => exact complete_candidateMove _ (.inr hs) rfl rfl rfl rfl
  case commError hs _ _ => exact complete_candidateMove _ (.inr hs) rfl rfl rfl rfl
  case good hs _ _ => exact complete_candidateMove _ (.inr hs) (by simp) (by simp) (by simp) (by simp)
  case settle hs =>
    refine .stay ?_ (by simp) (by simp)
    unfold settleStep
    split <;> simp [hs]
  all_goals exact .stay (by simp_all) (by simp) (by simp)

/-- Settles O52: by the three things a step does to the index. -/
theorem candidatesAreTriedInOrder : Obligations.CandidatesAreTriedInOrder := by
  intro s t h hrst
  obtain ⟨u, hc, rfl⟩ := step_cases h
  simp only [advance_state, advance_negIdx, advance_accIdx, advance_result]
  rcases hc.candidateMove hrst with
    ⟨horigin, hstate, hleft, hu, hidx, hacc⟩ | ⟨hstate, hword, hu, hidx, hacc⟩ | ⟨hu, hidx, hacc⟩
  · refine ⟨fun _ _ => ⟨horigin, hstate, hidx, hleft⟩, fun _ hidle => ?_, fun hne => absurd hu hne,
      fun hne => absurd hacc hne⟩
    rcases hstate with hs | hs <;> simp_all
  · exact ⟨fun _ hne => absurd hstate hne, fun _ _ => ⟨hidx, hword⟩, fun hne => absurd hu hne, fun _ => .inl hacc⟩
  · exact ⟨fun h => absurd h hu, fun h => absurd h hu, fun _ => hidx, fun hne => hacc.resolve_left hne⟩

end Sys2Proof.Machine
end

section
/-! Proofs of the statements about the invariant (rules R26, R30, R31, R45, R171 to R176, R201 and R204): what each
operation needs to keep it, then every step by its cases, and that no step of a state that meets it stops. -/

namespace Sys2Proof.Machine

/-! ## What keeps the invariant -/

/-- The parameters are all that the block's reset values need (rule R45). -/
theorem StateInv.resetBlock {s : State} (hwf : s.cfg.wf) : StateInv (resetBlock s) where
  wf := hwf
  countLeFour := Nat.zero_le _
  countInRx := nofun
  countInCheck := nofun
  indexInList := hwf.1
  accepted := nofun
  noneAccepted _ := rfl
  resetRate _ := ⟨rfl, rfl⟩
  rate h := absurd rfl h
  negotiatingNone _ := rfl
  candidateRate := by rintro (h | ⟨-, h⟩) <;> cases h
  probeIsNop := by rintro ⟨-, h⟩; cases h
  failedRecordsNothing _ _ := rfl
  acceptedStatus := nofun
  emptyCache _ := rfl
  sendInPast := Nat.zero_le _
  configureInPast := Nat.zero_le _

/-- Settles O57: the state right after reset is the block's reset values, with the default parameters. -/
theorem resetMeetsInvariant : Obligations.ResetMeetsInvariant :=
  StateInv.resetBlock (s := State.reset) ⟨by decide, by decide, by simp [State.reset, Config.default], by decide⟩

/-- No clause speaks of the output ports. -/
theorem StateInv.quiet {s : State} (h : StateInv s) : StateInv (quiet s) := { h with }

/-- Between two steps only the queue, the clock and the inputs change, and the clock does not run back. -/
theorem StateInv.advance {s : State} (h : StateInv s) : StateInv (advance s) := by
  unfold Machine.advance
  split <;> exact { h with
    sendInPast := h.sendInPast.trans (Nat.le_add_right ..)
    configureInPast := h.configureInPast.trans (Nat.le_add_right ..) }

/-- A command ends with an outcome that records nothing but its kind, or a valid response (rules R41 and R201). -/
theorem StateInv.finish {s : State} {o : Result} (h : StateInv s) (hstate : s.state ≠ .rst)
    (hkind : o.kind ≠ .negOk) (hrec : o.kind ≠ .txnOk → o = .plain o.kind) : StateInv (finish o s) :=
  { h with
    countInRx := nofun
    countInCheck := nofun
    resetRate := nofun
    rate := fun _ => h.rate hstate
    negotiatingNone := by simp
    candidateRate := by simp
    probeIsNop := by simp
    failedRecordsNothing := fun h _ => hrec h
    acceptedStatus := fun h => absurd h hkind }

/-- The three ways a probe ends keep the invariant: its candidate is accepted, the next one is tried, or none is left
(rules R174 to R176). -/
theorem StateInv.completeProbe {s : State} {o : Result} (h : StateInv s) (hstate : s.state = .rx ∨ s.state = .check)
    (horigin : s.origin = .neg) : StateInv (complete o s) := by
  have hprobing : probing s := ⟨.inr hstate, horigin⟩
  have hnone : s.baudOk = false := h.negotiatingNone (.inr (.inr (.inr hprobing)))
  have hrate : s.line.rate = s.baud := h.rate (by rcases hstate with h | h <;> simp [h])
  have hcandidate := h.candidateRate (.inr hprobing)
  rcases complete_cases o s with ⟨hhost, _⟩ | ⟨_, hok, e⟩ | ⟨_, _, hleft, e⟩ | ⟨_, _, _, e⟩
  · simp [horigin] at hhost
  · rw [e]
    exact { h with
      countInRx := nofun
      countInCheck := nofun
      accepted := fun _ => ⟨h.indexInList, hcandidate⟩
      noneAccepted := nofun
      resetRate := nofun
      rate := fun _ => hrate
      negotiatingNone := by simp
      candidateRate := by simp
      probeIsNop := by simp
      failedRecordsNothing := fun _ hne => absurd rfl hne
      acceptedStatus := fun _ => ((probeSucceeds_iff o).mp hok).2 }
  · rw [e]
    have hidx : (s.negIdx + 1#3).toNat = s.negIdx.toNat + 1 := by
      have := h.wf.2.1
      rw [BitVec.toNat_add, BitVec.toNat_ofNat]
      omega
    exact { h with
      countInRx := nofun
      countInCheck := nofun
      indexInList := by rw [hidx]; exact hleft
      resetRate := nofun
      rate := fun _ => hrate
      negotiatingNone := fun _ => hnone
      candidateRate := by simp
      probeIsNop := by simp }
  · rw [e]
    exact { h with
      countInRx := nofun
      countInCheck := nofun
      resetRate := nofun
      rate := fun _ => hrate
      negotiatingNone := fun _ => hnone
      candidateRate := by simp
      probeIsNop := by simp }

/-- A completion keeps the invariant, whoever issued the transaction (rule R146). -/
theorem StateInv.complete {s : State} {o : Result} (h : StateInv s) (hstate : s.state = .rx ∨ s.state = .check)
    (hkind : o.kind ≠ .negOk) (hrec : o.kind ≠ .txnOk → o = .plain o.kind) : StateInv (complete o s) := by
  cases horigin : s.origin with
  | host =>
    rw [complete_of_host o horigin]
    exact h.finish (by rcases hstate with h | h <;> simp [h]) hkind hrec
  | neg => exact h.completeProbe hstate horigin

/-- The cache and the diagnostic of an accepted response, and its completion (rule R145). -/
theorem StateInv.acceptResponse {s : State} (h : StateInv s) (hstate : s.state = .check) (st : Status) (reg : Byte)
    (data : Half) : StateInv (acceptResponse st reg data s) := by
  rw [acceptResponse_eq]
  exact StateInv.complete { h with emptyCache := nofun } (.inr hstate) (by simp) (by simp)

/-- The TX step clears the count and stamps the send time (rule R140). -/
theorem StateInv.sendRequest {s : State} (h : StateInv s) (hstate : s.state = .tx) (p : Packet) :
    StateInv (sendRequest p s) := by
  have hprobing (hp : probing (Machine.sendRequest p s)) : probing s := ⟨.inl hstate, hp.2⟩
  exact { h with
    countLeFour := Nat.zero_le _
    countInRx := fun _ => Nat.zero_le _
    countInCheck := nofun
    resetRate := nofun
    rate := fun _ => h.rate (by simp [hstate])
    negotiatingNone := by
      rintro (hs | hs | hs | hp)
      · cases hs
      · cases hs
      · cases hs
      · exact h.negotiatingNone (.inr (.inr (.inr (hprobing hp))))
    candidateRate := by
      rintro (hs | hp)
      · cases hs
      · exact h.candidateRate (.inr (hprobing hp))
    probeIsNop := fun hp => h.probeIsNop (hprobing hp)
    sendInPast := nowMs_le_time s }

/-- A byte taken into a buffer with room for it (rule R141). -/
theorem StateInv.rxTake {s : State} (h : StateInv s) (hstate : s.state = .rx) (hcount : s.rxCnt.toNat < 3) (b : Byte)
    (rest : List Byte) : StateInv (rxTake b rest s) := by
  have hcnt : (s.rxCnt + 1#3).toNat ≤ 3 := by
    rw [BitVec.toNat_add, BitVec.toNat_ofNat]
    omega
  exact { h with
    countLeFour := hcnt.trans (by decide)
    countInRx := fun _ => hcnt
    countInCheck := fun hs => by simp [hstate] at hs }

/-- The fourth byte fills the buffer and leads to CHECK (rule R141). -/
theorem StateInv.rxTakeLast {s : State} (h : StateInv s) (hstate : s.state = .rx) (hcount : s.rxCnt = 3#3) (b : Byte)
    (rest : List Byte) : StateInv { Machine.rxTake b rest s with state := .check } := by
  have hprobing (hp : probing { Machine.rxTake b rest s with state := .check }) : probing s := ⟨.inr (.inl hstate), hp.2⟩
  exact { h with
    countLeFour := by simp [hcount]
    countInRx := nofun
    countInCheck := fun _ => by simp [hcount]
    resetRate := nofun
    rate := fun _ => h.rate (by simp [hstate])
    negotiatingNone := by
      rintro (hs | hs | hs | hp)
      · cases hs
      · cases hs
      · cases hs
      · exact h.negotiatingNone (.inr (.inr (.inr (hprobing hp))))
    candidateRate := by
      rintro (hs | hp)
      · cases hs
      · exact h.candidateRate (.inr (hprobing hp))
    probeIsNop := fun hp => h.probeIsNop (hprobing hp) }

/-- The settled wait latches the NOP probe at the candidate's rate (rule R173). -/
theorem StateInv.settleStep {s : State} (h : StateInv s) (hstate : s.state = .negSettle) : StateInv (settleStep s) := by
  unfold Machine.settleStep
  split
  · exact { h with
      countInRx := nofun
      countInCheck := nofun
      resetRate := nofun
      rate := fun _ => h.rate (by simp [hstate])
      negotiatingNone := fun _ => h.negotiatingNone (.inr (.inl hstate))
      candidateRate := fun _ => h.candidateRate (.inl hstate)
      probeIsNop := fun _ => ⟨rfl, rfl, rfl, rfl⟩ }
  · exact h

/-- Every step keeps the invariant, before the world's next inputs come in. -/
theorem StepCase.stateInv {s u : State} (hc : StepCase s u) (h : StateInv s) : StateInv u := by
  cases hc
  case reset => exact StateInv.resetBlock h.wf
  case boot hs =>
    obtain ⟨hnone, -⟩ := h.resetRate hs
    exact { h with
      countInRx := nofun
      countInCheck := nofun
      accepted := fun hok => by simp [bootStep, hnone] at hok
      resetRate := nofun
      rate := fun _ => rfl
      negotiatingNone := fun _ => hnone
      candidateRate := by simp
      probeIsNop := by simp }
  case rest => exact h
  case txn hs _ _ =>
    exact { h with
      countInRx := nofun
      countInCheck := nofun
      resetRate := nofun
      rate := fun _ => h.rate (by simp [hs])
      negotiatingNone := by simp
      candidateRate := by simp
      probeIsNop := by simp }
  case negotiate hs _ _ =>
    exact { h with
      countInRx := nofun
      countInCheck := nofun
      indexInList := h.wf.1
      accepted := nofun
      noneAccepted := fun _ => rfl
      resetRate := nofun
      rate := fun _ => h.rate (by simp [hs])
      negotiatingNone := fun _ => rfl
      candidateRate := by simp
      probeIsNop := by simp }
  case setverb hs _ _ => exact StateInv.finish { h with } (by simp [hs]) (by simp) (fun _ => rfl)
  case illegal hs _ _ => exact h.finish (by simp [hs]) (by simp) (fun _ => rfl)
  case send hs => exact h.sendRequest hs _
  case timeout hs _ => exact h.complete (.inl hs) (by simp) (fun _ => rfl)
  case poll => exact h
  case takeLast hs _ _ hcount => exact h.rxTakeLast hs hcount _ _
  case take hs _ _ hcount => exact h.rxTake hs hcount _ _
  case checksum hs _ => exact h.complete (.inr hs) (by simp) (fun _ => rfl)
  case commError hs _ _ => exact h.complete (.inr hs) (by simp) (fun _ => rfl)
  case good hs _ _ => exact h.acceptResponse hs _ _ _
  case candidate hs hb =>
    have hnone := h.negotiatingNone (.inl hs)
    exact { h with
      countInRx := nofun
      countInCheck := nofun
      accepted := fun hok => by simp [hnone] at hok
      resetRate := nofun
      rate := fun _ => rfl
      negotiatingNone := fun _ => hnone
      candidateRate := fun _ => hb
      probeIsNop := by simp
      configureInPast := nowMs_le_time s }
  case settle hs => exact h.settleStep hs
  case fallback =>
    exact { h with
      countInRx := nofun
      countInCheck := nofun
      accepted := nofun
      noneAccepted := fun _ => rfl
      resetRate := nofun
      rate := fun _ => rfl
      negotiatingNone := fun _ => rfl
      candidateRate := by simp
      probeIsNop := by simp
      failedRecordsNothing := fun _ _ => rfl
      acceptedStatus := nofun }

/-- Settles O58: quieting the ports, the step's case and the passage to the next step each keep the invariant. -/
theorem everyStepKeepsInvariant : Obligations.EveryStepKeepsInvariant := by
  intro s t h hstep
  obtain ⟨u, hc, rfl⟩ := step_cases hstep
  exact (hc.stateInv h.quiet).advance

/-! ## No step stops -/

/-- No instruction stops the block (rule R204). -/
theorem exec_next (i : Instr) (s : State) : ∃ u, exec i s = .next u := by
  cases i <;> exact ⟨_, rfl⟩

/-- With room in the buffer an RX step answers a next state. -/
theorem receiveStep_next {s : State} (hcount : s.rxCnt.toNat ≤ 3) : ∃ u, receiveStep s = .next u := by
  rcases receiveStep_cases s with ⟨_, e⟩ | ⟨_, _, e⟩ | ⟨_, _, _, _, _, e⟩ | ⟨_, _, _, _, _, e⟩ | ⟨hover, _⟩
  · exact ⟨_, e⟩
  · exact ⟨_, e⟩
  · exact ⟨_, e⟩
  · exact ⟨_, e⟩
  · omega

/-- With the index in the list a NEG_CFG step answers a next state. -/
theorem candidateStep_next {s : State} (hidx : s.negIdx.toNat < s.cfg.nBaud) : ∃ u, candidateStep s = .next u :=
  ⟨_, candidateStep_of_some (List.getElem?_eq_getElem hidx)⟩

theorem state_of_fetch_receive {s : State} (h : fetch s = .micro .receive) : s.state = .rx := by
  unfold fetch at h
  repeat' split at h
  all_goals simp_all

/-- Settles O59: only the RX and the NEG_CFG step have a fault, and the invariant excludes both. -/
theorem noStepStopsUnderInvariant : Obligations.NoStepStopsUnderInvariant := by
  intro s h
  have hperform : ∃ u, perform (fetch s) (quiet s) = .next u := by
    cases hfetch : fetch s with
    | instr i => exact exec_next i _
    | micro m =>
      cases m with
      | receive =>
        exact receiveStep_next (s := quiet s) (h.countInRx (state_of_fetch_receive hfetch))
      | candidate => exact candidateStep_next (s := quiet s) h.indexInList
      | _ => exact ⟨_, rfl⟩
  obtain ⟨u, hu⟩ := hperform
  exact ⟨_, step_of_perform hu⟩

end Sys2Proof.Machine
end

section
/-! Proof of the statement about the transport's duties (20_memory.md, rule R56): the queue and the rate by the cases of
a step, and that time passes, by the steps the script holds and the standstill the free value bounds. -/

namespace Sys2Proof.Machine

/-! ## The queue, the rate and the clock in one step -/

/-- A step leaves the queue, or pops its head into the receive buffer (rules R56 (b) and R141). -/
theorem StepCase.rxq_cases {s u : State} (h : StepCase s u) (hquiet : s.out = .quiet) :
    (u.out.rxPop = false ∧ u.line.rxq = s.line.rxq)
    ∨ ∃ b rest, u.out.rxPop = true ∧ s.line.rxq = b :: rest ∧ u.line.rxq = rest
      ∧ u.rxbuf = putByte s.rxbuf s.rxCnt b := by
  cases h
  case takeLast b rest _ _ _ hq _ => exact .inr ⟨b, rest, rfl, hq, rfl, rfl⟩
  case take b rest _ _ _ hq _ => exact .inr ⟨b, rest, rfl, hq, rfl, rfl⟩
  all_goals exact .inl (by simp [hquiet, Outputs.quiet])

/-- The transport runs at the rate of the step's `Configure`, and otherwise at the rate before. -/
theorem StepCase.rate_eq {s u : State} (h : StepCase s u) (hquiet : s.out.cfg = none) :
    u.line.rate = u.out.cfg.getD s.line.rate := by
  by_cases hrst : s.env.inp.rst = false
  · rcases h.configures hrst hquiet with ⟨hnone, -, hrate⟩ | ⟨b, hsome, -, hrate, -⟩
    · simp [hnone, hrate]
    · simp [hsome, hrate]
  · cases h
    case reset => rfl
    all_goals contradiction

/-- A sample lies below an earlier one only where the count has wrapped (rule R213). -/
theorem wrapped_of_nowMs_lt {s t : State} (htime : s.line.time ≤ t.line.time) (h : nowMs t < nowMs s) :
    s.line.time / 2 ^ 32 < t.line.time / 2 ^ 32 := by
  simp only [nowMs, BitVec.lt_def, BitVec.toNat_ofNat] at h
  omega

/-! ## Time passes -/

/-- A step from a state of the invariant: what it leaves for the next is the world's passage alone. -/
theorem exists_step_of_stateInv {s : State} (h : StateInv s) :
    ∃ u, step s = .next (advance u) ∧ StateInv (advance u) ∧ u.env = s.env ∧ u.line.time = s.line.time := by
  obtain ⟨t, hstep⟩ := noStepStopsUnderInvariant s h
  obtain ⟨u, hc, rfl⟩ := step_cases hstep
  exact ⟨u, hstep, everyStepKeepsInvariant s _ h hstep, hc.env_eq, hc.time_eq⟩

/-- A run of `s` that has come to `t` in a state of the invariant, its script used up and the clock at `n` or later. -/
def Reaches (s : State) (n : Nat) (t : State) : Prop :=
  (∃ k, RunsTo k s t) ∧ StateInv t ∧ t.env.script = [] ∧ n ≤ t.line.time

theorem Reaches.of_step {s u t : State} {n : Nat} (h : Reaches u n t) (hstep : step s = .next u) : Reaches s n t := by
  obtain ⟨⟨k, hrun⟩, hrest⟩ := h
  exact ⟨⟨1 + k, RunsTo.append (RunsTo.succ rfl hstep) hrun⟩, hrest⟩

/-- The script comes to its end. -/
theorem reaches_end_of_script {s : State} (h : StateInv s) : ∃ t, Reaches s 0 t := by
  generalize hscript : s.env.script = script
  induction script generalizing s with
  | nil => exact ⟨s, ⟨0, rfl⟩, h, hscript, Nat.zero_le _⟩
  | cons e rest ih =>
    obtain ⟨u, hstep, hinv, henv, -⟩ := exists_step_of_stateInv h
    obtain ⟨t, ht⟩ := ih hinv (by rw [advance_scripted ((congrArg Env.script henv).trans hscript)])
    exact ⟨t, ht.of_step hstep⟩

/-- The passage to the next step without a script. -/
theorem advance_unscripted {s : State} (h : s.env.script = []) :
    (advance s).env.script = [] ∧ (advance s).env.drawn = s.env.drawn + 1
    ∧ (advance s).env.stalled = (if freeMs s.env = 0#32 then s.env.stalled + 1 else 0)
    ∧ (advance s).line.time = s.line.time + (freeMs s.env).toNat := by
  simp [advance, h, Transport.pass]

/-- Once the standstill has lasted as long as it may, time passes (rule R56 (d)). -/
theorem freeMs_ne_zero {v : Env} (h : Config.freeStall (v.drawn - v.stalled) ≤ v.stalled) : freeMs v ≠ 0#32 := by
  unfold freeMs
  split
  · decide
  · next hn => exact fun hms => hn ⟨hms, h⟩

/-- Without a script the clock goes on, at the latest when the standstill has lasted as long as it may. -/
theorem reaches_later {s : State} (h : StateInv s) (hscript : s.env.script = []) :
    ∃ t, Reaches s (s.line.time + 1) t := by
  generalize hleft : Config.freeStall (s.env.drawn - s.env.stalled) - s.env.stalled = left
  induction left generalizing s with
  | zero =>
    obtain ⟨u, hstep, hinv, henv, htime⟩ := exists_step_of_stateInv h
    obtain ⟨hs', -, -, htime'⟩ := advance_unscripted (s := u) (henv ▸ hscript)
    have hms : 0 < (freeMs u.env).toNat := by
      have := freeMs_ne_zero (v := u.env) (by rw [henv]; omega)
      exact Nat.pos_of_ne_zero fun h0 => this (BitVec.eq_of_toNat_eq h0)
    exact ⟨_, Reaches.of_step ⟨⟨0, rfl⟩, hinv, hs', by omega⟩ hstep⟩
  | succ left ih =>
    obtain ⟨u, hstep, hinv, henv, htime⟩ := exists_step_of_stateInv h
    obtain ⟨hs', hdrawn, hstalled, htime'⟩ := advance_unscripted (s := u) (henv ▸ hscript)
    by_cases hms : freeMs u.env = 0#32
    · rw [if_pos hms] at hstalled
      rw [hms] at htime'
      have hbegin : (advance u).env.drawn - (advance u).env.stalled = s.env.drawn - s.env.stalled := by
        rw [hdrawn, hstalled, henv]; omega
      obtain ⟨t, ht⟩ := ih hinv hs' (by rw [hbegin, hstalled, henv]; omega)
      refine ⟨t, Reaches.of_step ?_ hstep⟩
      rwa [htime', htime] at ht
    · have hms : 0 < (freeMs u.env).toNat := Nat.pos_of_ne_zero fun h0 => hms (BitVec.eq_of_toNat_eq h0)
      exact ⟨_, Reaches.of_step ⟨⟨0, rfl⟩, hinv, hs', by omega⟩ hstep⟩

theorem Reaches.trans {s t u : State} {m n : Nat} (h : Reaches s m t) (h' : Reaches t n u) : Reaches s n u := by
  obtain ⟨⟨j, hj⟩, -⟩ := h
  obtain ⟨⟨k, hk⟩, hrest⟩ := h'
  exact ⟨⟨j + k, hj.append hk⟩, hrest⟩

/-- The clock passes every bound. -/
theorem reaches_bound {s : State} (h : StateInv s) (bound : Nat) : ∃ t, Reaches s bound t := by
  induction bound with
  | zero => exact reaches_end_of_script h
  | succ n ih =>
    obtain ⟨t, ht⟩ := ih
    obtain ⟨-, hinv, hscript, htime⟩ := id ht
    obtain ⟨v, hv⟩ := reaches_later hinv hscript
    obtain ⟨hrun, hinv', hscript', htime'⟩ := ht.trans hv
    exact ⟨v, hrun, hinv', hscript', by omega⟩

/-- Settles O60: the duties in one step by its cases, and that time passes by the standstill's bound. -/
theorem transportKeepsItsDuties : Obligations.TransportKeepsItsDuties := by
  refine ⟨fun s t h => ?_, fun s bound h => ?_⟩
  · obtain ⟨hback, hfar⟩ := step_time h
    obtain ⟨u, hc, rfl⟩ := step_cases h
    obtain ⟨ms, a, hline⟩ := advance_line u
    have hrxq : u.line.rxq <+: (advance u).line.rxq := by rw [hline, pass_rxq]; exact List.prefix_append ..
    rw [advance_out, advance_rxbuf, advance_rate]
    refine ⟨fun hpop => ?_, fun hpop => ?_, by simp [rxAvail], hc.rate_eq rfl, hback, hfar, wrapped_of_nowMs_lt hback⟩
    · rcases hc.rxq_cases rfl with ⟨-, hq⟩ | ⟨b, rest, hp, -⟩
      · exact (show u.line.rxq = s.line.rxq from hq) ▸ hrxq
      · simp [hpop] at hp
    · rcases hc.rxq_cases rfl with ⟨hp, -⟩ | ⟨b, rest, -, hq, hrest, hbuf⟩
      · simp [hpop] at hp
      · exact ⟨b, rest, hq, hrest ▸ hrxq, hbuf⟩
  · obtain ⟨t, ⟨k, hrun⟩, -, -, htime⟩ := reaches_bound h bound
    exact ⟨k, t, hrun, htime⟩

end Sys2Proof.Machine
end

section
/-! Whole commands in a world that a script fixes (41_transaction.md and 42_control.md): where a run stands after some
steps, and how the bytes that have come are received. -/

namespace Sys2Proof.Machine

/-! ## A run in a scripted world -/

/-- The bytes that have come by the sample of step `k`, taken from the queue or not, in order. -/
def received (s : State) (world : Nat → EnvStep) (k : Nat) : List Byte := s.line.rxq ++ arrivedBy world k

theorem received_succ (s : State) (world : Nat → EnvStep) (k : Nat) :
    received s world (k + 1) = received s world k ++ (world (k + 1)).arrivals :=
  (List.append_assoc ..).symm

theorem received_prefix (s : State) (world : Nat → EnvStep) {j k : Nat} (h : j ≤ k) :
    received s world j <+: received s world k := by
  induction k, h using Nat.le_induction with
  | base => exact List.prefix_rfl
  | succ k _ ih => exact ih.trans (received_succ s world k ▸ List.prefix_append ..)

/-- The machine stands at `v` after `k` steps from `s`, in a world whose first `n` steps the script of `s` fixes. -/
structure Follows (s : State) (world : Nat → EnvStep) (n : Nat) (rest : List EnvStep) (k : Nat) (v : State) : Prop where
  run : RunsTo k s v
  script : v.env.script = (List.range' (k + 1) (n - k)).map world ++ rest
  now : nowMs v = nowMs s + msBy world k
  inp : 1 ≤ k → v.env.inp = (world k).inp

section
variable {s : State} {world : Nat → EnvStep} {n : Nat} {rest : List EnvStep} {k : Nat} {v : State}

theorem Follows.start (hscript : s.env.script = (List.range' 1 n).map world ++ rest) :
    Follows s world n rest 0 s where
  run := rfl
  script := hscript
  now := (BitVec.add_zero _).symm
  inp := nofun

theorem Follows.script_cons (h : Follows s world n rest k v) (hk : k < n) :
    v.env.script = world (k + 1) :: ((List.range' (k + 1 + 1) (n - (k + 1))).map world ++ rest) := by
  rw [h.script, show n - k = (n - (k + 1)) + 1 by omega, List.range'_succ]
  rfl

/-- The next step samples the world's next step. -/
theorem Follows.step (h : Follows s world n rest k v) (hk : k < n) {u : State} (hstep : step v = .next (advance u))
    (henv : u.env = v.env) (htime : u.line.time = v.line.time) : Follows s world n rest (k + 1) (advance u) := by
  have hadv := advance_scripted ((congrArg Env.script henv).trans (h.script_cons hk))
  refine ⟨h.run.succ hstep, by rw [hadv], ?_, fun _ => by rw [hadv]⟩
  rw [hadv, msBy, ← BitVec.add_assoc, ← h.now]
  simp [nowMs, htime, BitVec.ofNat_add]

/-- In the next step the bytes of the world's next step stand behind those the step leaves. -/
theorem Follows.rxq_advance (h : Follows s world n rest k v) (hk : k < n) {u : State} (henv : u.env = v.env) :
    (advance u).line.rxq = u.line.rxq ++ (world (k + 1)).arrivals := by
  rw [advance_scripted ((congrArg Env.script henv).trans (h.script_cons hk))]
  rfl

theorem Follows.rst (h : Follows s world n rest k v) (hk : 1 ≤ k) (hrst : (world k).inp.rst = false) :
    v.env.inp.rst = false := by
  rw [h.inp hk, hrst]

/-- The elapsed time since a sample of step `i` is what the world has let pass. -/
theorem Follows.elapsed_eq (h : Follows s world n rest k v) {since : Word} {i : Nat}
    (hsince : since = nowMs s + msBy world i) : elapsed (nowMs v) since = waited world i k := by
  rw [h.now, hsince, waited, elapsed, elapsed, add_sub_add_left_eq_sub]

/-! ## Receiving -/

/-- What the steps of RX leave alone. -/
structure Keeps (b v : State) : Prop where
  cfg : v.cfg = b.cfg
  reqReg : v.reqReg = b.reqReg
  reqTc : v.reqTc = b.reqTc
  origin : v.origin = b.origin
  t0 : v.t0 = b.t0
  last : v.last = b.last
  verbose : v.verbose = b.verbose
  baud : v.baud = b.baud
  baudOk : v.baudOk = b.baudOk
  accIdx : v.accIdx = b.accIdx
  negIdx : v.negIdx = b.negIdx
  rate : v.line.rate = b.line.rate

theorem Keeps.refl (b : State) : Keeps b b := by constructor <;> rfl

theorem Keeps.advance_quiet {b : State} (h : Keeps b v) : Keeps b (advance (quiet v)) := by
  obtain ⟨⟩ := h
  constructor <;> simpa

theorem Keeps.advance_take {b : State} (h : Keeps b v) (x : Byte) (q : List Byte) (st : EngState) :
    Keeps b (advance { rxTake x q (quiet v) with state := st }) := by
  obtain ⟨⟩ := h
  constructor <;> simpa

/-- The bytes of a packet, in the order they are received. -/
def packetBytes (p : Packet) : List Byte := [p.b0, p.b1, p.b2, p.b3]

theorem packetBytes_injective {p q : Packet} (h : packetBytes p = packetBytes q) : p = q := by
  cases p
  cases q
  simpa [packetBytes] using h

/-- A byte put at an index follows the bytes before it. -/
theorem take_packetBytes_putByte (p : Packet) (k : Idx) (b : Byte) (hk : k.toNat ≤ 3) :
    (packetBytes (putByte p k b)).take (k.toNat + 1) = (packetBytes p).take k.toNat ++ [b] := by
  have : k = 0#3 ∨ k = 1#3 ∨ k = 2#3 ∨ k = 3#3 := by
    revert k; decide
  rcases this with rfl | rfl | rfl | rfl <;> rfl

/-- In RX after `k` steps, with `c` bytes taken of those received and the others waiting. -/
structure Receiving (s : State) (world : Nat → EnvStep) (n : Nat) (rest : List EnvStep) (b : State) (k c : Nat)
    (v : State) : Prop where
  follows : Follows s world n rest k v
  keeps : Keeps b v
  state : v.state = .rx
  count : v.rxCnt.toNat = c
  room : c ≤ 3
  came : c ≤ (received s world k).length
  queue : v.line.rxq = (received s world k).drop c
  buffer : (packetBytes v.rxbuf).take c = (received s world k).take c

/-- In CHECK after `k` steps, with the first four bytes received in the buffer and the others waiting. -/
structure Checking (s : State) (world : Nat → EnvStep) (n : Nat) (rest : List EnvStep) (b : State) (k : Nat)
    (v : State) : Prop where
  follows : Follows s world n rest k v
  keeps : Keeps b v
  state : v.state = .check
  came : 4 ≤ (received s world k).length
  queue : v.line.rxq = (received s world k).drop 4
  buffer : packetBytes v.rxbuf = (received s world k).take 4

variable {b : State} {c : Nat}

/-- Before the deadline an RX step without a byte waits. -/
theorem Receiving.wait (h : Receiving s world n rest b k c v) (hk : k < n) (hrst : v.env.inp.rst = false)
    (hdeadline : elapsed (nowMs v) v.t0 < deadline v.cfg v.reqTc) (hall : (received s world k).length ≤ c) :
    ∃ w, Receiving s world n rest b (k + 1) c w := by
  have hempty : v.line.rxq = [] := by rw [h.queue, List.drop_eq_nil_of_le hall]
  have hstep : step v = .next (advance (quiet v)) := step_of_wait (by
    rw [fetch_of_rx hrst h.state]
    exact receiveStep_of_empty (s := quiet v) hempty hdeadline)
  have hrecv := received_succ s world k
  refine ⟨_, h.follows.step hk hstep rfl rfl, h.keeps.advance_quiet, by simp [h.state], by simp [h.count], h.room, ?_,
    ?_, ?_⟩
  · rw [hrecv, List.length_append]
    exact Nat.le_add_right_of_le h.came
  · rw [h.follows.rxq_advance hk (u := quiet v) rfl, hrecv, List.drop_append_of_le_length h.came, ← h.queue]
    rfl
  · rw [hrecv, List.take_append_of_le_length h.came, ← h.buffer, advance_rxbuf]
    rfl

/-- Before the deadline an RX step takes the next byte received. -/
theorem Receiving.take_step (h : Receiving s world n rest b k c v) (hk : k < n) (hrst : v.env.inp.rst = false)
    (hdeadline : elapsed (nowMs v) v.t0 < deadline v.cfg v.reqTc) (hbyte : c < (received s world k).length) :
    ∃ w, Follows s world n rest (k + 1) w ∧ Keeps b w ∧ w.state = (if c = 3 then .check else .rx)
      ∧ w.rxCnt = v.rxCnt + 1#3 ∧ w.line.rxq = (received s world (k + 1)).drop (c + 1)
      ∧ (packetBytes w.rxbuf).take (c + 1) = (received s world (k + 1)).take (c + 1) := by
  obtain rfl := h.count
  have hqueue := h.queue.trans (List.drop_eq_getElem_cons hbyte)
  have hstep := step_of_rx_byte hrst h.state hqueue hdeadline h.room
  have hlast : v.rxCnt = 3#3 ↔ v.rxCnt.toNat = 3 := BitVec.toNat_inj.symm
  have hrecv := received_succ s world k
  refine ⟨_, h.follows.step hk hstep rfl rfl, h.keeps.advance_take .., ?_, ?_, ?_, ?_⟩
  · simp only [advance_state, hlast]
  · simp
  · rw [hrecv, List.drop_append_of_le_length hbyte]
    exact h.follows.rxq_advance hk rfl
  · rw [hrecv, List.take_append_of_le_length hbyte, List.take_succ_eq_append_getElem hbyte, ← h.buffer, advance_rxbuf]
    exact take_packetBytes_putByte _ _ _ h.room

/-- A byte that is not the fourth. -/
theorem Receiving.take (h : Receiving s world n rest b k c v) (hk : k < n) (hrst : v.env.inp.rst = false)
    (hdeadline : elapsed (nowMs v) v.t0 < deadline v.cfg v.reqTc) (hbyte : c < (received s world k).length)
    (hc : c < 3) : ∃ w, Receiving s world n rest b (k + 1) (c + 1) w := by
  obtain ⟨w, hfollows, hkeeps, hstate, hcount, hqueue, hbuffer⟩ := h.take_step hk hrst hdeadline hbyte
  refine ⟨w, hfollows, hkeeps, by simp [hstate, hc.ne], ?_, hc, ?_, hqueue, hbuffer⟩
  · rw [hcount, BitVec.toNat_add, h.count, BitVec.toNat_ofNat]
    omega
  · exact hbyte.trans_le (received_prefix s world (Nat.le_succ k)).length_le

/-- The fourth byte. -/
theorem Receiving.take_last (h : Receiving s world n rest b k 3 v) (hk : k < n) (hrst : v.env.inp.rst = false)
    (hdeadline : elapsed (nowMs v) v.t0 < deadline v.cfg v.reqTc) (hbyte : 3 < (received s world k).length) :
    ∃ w, Checking s world n rest b (k + 1) w := by
  obtain ⟨w, hfollows, hkeeps, hstate, -, hqueue, hbuffer⟩ := h.take_step hk hrst hdeadline hbyte
  refine ⟨w, hfollows, hkeeps, hstate, ?_, hqueue, hbuffer⟩
  exact hbyte.trans_le (received_prefix s world (Nat.le_succ k)).length_le

/-- A transaction whose send step was `i` is in CHECK at step `h + 4` at the latest, when from step `h` on the bytes keep
up and the deadline is not reached in the three steps after it. -/
theorem reception {i h : Nat} (hsent : b.t0 = nowMs s + msBy world i)
    (hrst : ∀ k, 1 ≤ k → k ≤ h + 4 → (world k).inp.rst = false)
    (hdeadline : ∀ k, i < k → k ≤ h + 3 → waited world i k < deadline b.cfg b.reqTc)
    (hbytes : ∀ k c, c ≤ 3 → i + 1 + c ≤ k → h ≤ k → k ≤ h + c → c < (received s world k).length)
    (hr : Receiving s world (h + 4) rest b k c v) (hpace : i + 1 + c ≤ k) (hlate : k ≤ h + c) :
    ∃ m w, i + 5 ≤ m ∧ m ≤ h + 4 ∧ Checking s world (h + 4) rest b m w := by
  induction hfuel : h + 4 - k generalizing k c v with
  | zero =>
    have := hr.room
    omega
  | succ fuel ih =>
    have hc := hr.room
    have hk : k < h + 4 := by omega
    have hvrst := hr.follows.rst (by omega) (hrst k (by omega) (by omega))
    have hbefore : elapsed (nowMs v) v.t0 < deadline v.cfg v.reqTc := by
      rw [hr.follows.elapsed_eq (hr.keeps.t0.trans hsent), hr.keeps.cfg, hr.keeps.reqTc]
      exact hdeadline k (by omega) (by omega)
    by_cases hbyte : c < (received s world k).length
    · rcases Nat.lt_or_eq_of_le hc with hlt | rfl
      · obtain ⟨w, hw⟩ := hr.take hk hvrst hbefore hbyte hlt
        exact ih hw (by omega) (by omega) (by omega)
      · obtain ⟨w, hw⟩ := hr.take_last hk hvrst hbefore hbyte
        exact ⟨k + 1, w, by omega, by omega, hw⟩
    · have hearly : k < h := by
        by_contra hge
        exact hbyte (hbytes k c hc hpace (by omega) hlate)
      obtain ⟨w, hw⟩ := hr.wait hk hvrst hbefore (by omega)
      exact ih hw (by omega) (by omega) (by omega)

end

end Sys2Proof.Machine
end

section
/-! Proofs of the statements about a whole transaction (20_memory.md section 3 and 41_transaction.md, rules R58, R142,
R150, R151 and R153): the two steps that send its packet, the reception, and how it ends. -/

namespace Sys2Proof.Machine

/-! ## The steps of a transaction -/

/-- The TX step sends the latched request (rule R140). -/
theorem step_of_tx {s : State} (hrst : s.env.inp.rst = false) (hstate : s.state = .tx) :
    step s = .next (advance (sendRequest (requestPacket s.cfg s.reqReg s.reqVal s.reqW) (quiet s))) := by
  rw [step_of_fetch_instr (fetch_of_tx hrst hstate), latchedRequest]
  cases s.reqW <;> rfl

/-- After a TX step the engine waits, with nothing taken of the bytes that had come. -/
theorem Follows.send {s v : State} {world : Nat → EnvStep} {rest : List EnvStep} {n k : Nat}
    (h : Follows s world n rest k v) (hk : k < n) (hrst : v.env.inp.rst = false) (hstate : v.state = .tx)
    (hqueue : v.line.rxq = received s world k) :
    ∃ u, u = advance (sendRequest (requestPacket v.cfg v.reqReg v.reqVal v.reqW) (quiet v))
      ∧ Receiving s world n rest u (k + 1) 0 u := by
  refine ⟨_, rfl, h.step hk (step_of_tx hrst hstate) rfl rfl, Keeps.refl _, by simp, by simp, by decide, Nat.zero_le _,
    ?_, rfl⟩
  rw [List.drop_zero, received_succ, ← hqueue]
  exact h.rxq_advance (u := sendRequest _ (quiet v)) hk rfl

/-- An RX step that has expired completes as TXN_TIMEOUT (rule R142). -/
theorem step_of_rx_expired {s : State} (hrst : s.env.inp.rst = false) (hstate : s.state = .rx)
    (hexpired : expired s.cfg s.reqTc (elapsed (nowMs s) s.t0) (!s.line.rxq.isEmpty) = true) :
    step s = .next (advance (complete (.plain .txnTimeout) (quiet s))) := by
  apply step_of_perform
  rw [fetch_of_rx hrst hstate]
  exact if_pos hexpired

/-- The CHECK step of a host transaction ends it with the packet's outcome (rules R143 to R146). -/
theorem step_of_check_host {s : State} (hrst : s.env.inp.rst = false) (hstate : s.state = .check)
    (horigin : s.origin = .host) :
    ∃ diag, step s = .next (advance { s with
      last := cacheAfter s.cfg s.last s.rxbuf
      result := packetOutcome s.cfg s.reqReg s.rxbuf
      state := .idle
      out := { Outputs.quiet with done := true, diag := diag } }) := by
  have hfinish (o : Result) : complete o (quiet s) = finish o (quiet s) := complete_of_host o horigin
  cases hd : decodePacket s.cfg s.rxbuf with
  | none =>
    refine ⟨none, ?_⟩
    rw [step_of_check_none hrst hstate hd, hfinish]
    simp only [packetOutcome, cacheAfter, hd]
    rfl
  | some r =>
    cases hce : r.ce with
    | true =>
      refine ⟨none, ?_⟩
      rw [step_of_check_ce hrst hstate hd hce, hfinish]
      simp only [packetOutcome, cacheAfter, hd, hce, if_true]
      rfl
    | false =>
      have haccept := (acceptResponse_eq r.status r.reg r.data (quiet s)).trans (complete_of_host _ horigin)
      refine ⟨if r.reg ≠ s.reqReg ∧ s.verbose = true then some (0x1#4, s.reqReg ++ r.reg) else none, ?_⟩
      rw [step_of_check_good hrst hstate hd hce, haccept]
      simp only [packetOutcome, cacheAfter, hd, hce, Bool.false_eq_true, if_false]
      rfl

/-- What the first two steps of a TXN leave: its packet on the port, its latch, and the rest as in `s`. -/
structure TxnSent (s : State) (w tc : Bool) (reg : Byte) (value : Half) (u : State) : Prop where
  tx : u.out.tx = some (encode s.cfg (if w then .cmdWr reg value else .cmdRd reg value))
  reqReg : u.reqReg = reg
  reqTc : u.reqTc = tc
  origin : u.origin = .host
  cfg : u.cfg = s.cfg
  last : u.last = s.last
  verbose : u.verbose = s.verbose
  baud : u.baud = s.baud
  baudOk : u.baudOk = s.baudOk
  accIdx : u.accIdx = s.accIdx

section
variable {s : State} {w tc : Bool} {reg : Byte} {value : Half} {world : Nat → EnvStep} {rest : List EnvStep} {n : Nat}

/-- A TXN on the port of an idle engine is accepted and sent in two steps, and the engine waits with nothing taken. -/
theorem txn_sent (hrst : s.env.inp.rst = false) (hstate : s.state = .idle) (hvalid : s.env.inp.cmdValid = true)
    (hword : s.env.inp.cmdWord = encode s.cfg (if w then .txnWr tc reg value else .txnRd tc reg value))
    (hscript : s.env.script = (List.range' 1 n).map world ++ rest) (hn : 2 ≤ n) (hrst1 : (world 1).inp.rst = false) :
    ∃ u, Receiving s world n rest u 2 0 u ∧ TxnSent s w tc reg value u ∧ u.t0 = nowMs s + msBy world 1 := by
  have hfollows := Follows.start (world := world) hscript
  have haccept := step_of_txn w tc reg value hrst hstate hvalid hword
  have hfollows1 := hfollows.step (by omega) haccept rfl rfl
  have hrxq1 := hfollows.rxq_advance (u := acceptTxn w tc reg value (quiet s)) (by omega) rfl
  have hqueue1 : (advance (acceptTxn w tc reg value (quiet s))).line.rxq = received s world 1 := by
    rw [received_succ, received, arrivedBy, List.append_nil]
    exact hrxq1
  obtain ⟨u, hu, hrecv⟩ := hfollows1.send (by omega) (hfollows1.rst le_rfl hrst1) (by simp) hqueue1
  refine ⟨u, hrecv, ?_, ?_⟩
  · rw [hu]
    constructor <;> simp
    cases w <;> rfl
  · rw [hu, ← hfollows1.now]
    simp

/-- A transaction in CHECK, with the packet of the first four bytes received, ends in the next step. -/
theorem txn_ends_of_checking {u v : State} {p : Packet} {m : Nat} (hsent : TxnSent s w tc reg value u)
    (hc : Checking s world n rest u m v) (hrst : v.env.inp.rst = false)
    (hpacket : (received s world m).take 4 = packetBytes p) :
    ∃ t, RunsTo (m + 1) s t ∧ EndsWithPacket s t reg p ((received s world m).drop 4) := by
  obtain ⟨diag, hstep⟩ := step_of_check_host hrst hc.state (hc.keeps.origin.trans hsent.origin)
  have hbuf : v.rxbuf = p := packetBytes_injective (hc.buffer.trans hpacket)
  have hcfg := hc.keeps.cfg.trans hsent.cfg
  have hreg := hc.keeps.reqReg.trans hsent.reqReg
  refine ⟨_, hc.follows.run.succ hstep, ?_⟩
  constructor
  case queue =>
    obtain ⟨ms, a, hline⟩ := advance_line { v with
      last := cacheAfter v.cfg v.last v.rxbuf
      result := packetOutcome v.cfg v.reqReg v.rxbuf
      state := .idle
      out := { Outputs.quiet with done := true, diag := diag } }
    rw [hline, pass_rxq, ← hc.queue]
    exact List.prefix_append ..
  case result => simp [hcfg, hreg, hbuf]
  case rxbuf => simp [hbuf]
  case last => simp [hcfg, hbuf, hc.keeps.last, hsent.last]
  case verbose => simp [hc.keeps.verbose, hsent.verbose]
  case baud => simp [hc.keeps.baud, hsent.baud]
  case baudOk => simp [hc.keeps.baudOk, hsent.baudOk]
  case accIdx => simp [hc.keeps.accIdx, hsent.accIdx]
  all_goals simp

/-- Once four bytes have come, the first four do not change. -/
theorem received_take_four {p : Packet} {j k : Nat} (hj : (received s world j).take 4 = packetBytes p)
    (hk : 4 ≤ (received s world k).length) : (received s world k).take 4 = packetBytes p := by
  have hprefix {l l' : List Byte} (h : l <+: l') (hl : 4 ≤ l.length) : l.take 4 = l'.take 4 := by
    obtain ⟨t, rfl⟩ := h
    rw [List.take_append_of_le_length hl]
  have hlen : 4 ≤ (received s world j).length := by
    have := congrArg List.length hj
    simp only [List.length_take, packetBytes, List.length_cons, List.length_nil] at this
    omega
  rw [← hj]
  rcases Nat.le_total j k with h | h
  · exact (hprefix (received_prefix s world h) hlen).symm
  · exact hprefix (received_prefix s world h) hk

/-- A TXN whose bytes keep up from step `h` on ends at step `h + 5` at the latest. -/
theorem txn_completes {p : Packet} {h j : Nat} (hrst : s.env.inp.rst = false) (hstate : s.state = .idle)
    (hvalid : s.env.inp.cmdValid = true)
    (hword : s.env.inp.cmdWord = encode s.cfg (if w then .txnWr tc reg value else .txnRd tc reg value)) (hh : 2 ≤ h)
    (hpacket : (received s world j).take 4 = packetBytes p)
    (hscript : s.env.script = (List.range' 1 (h + 4)).map world ++ rest)
    (hrsts : ∀ k, 1 ≤ k → k ≤ h + 4 → (world k).inp.rst = false)
    (hdeadline : ∀ k, 2 ≤ k → k ≤ h + 3 → waited world 1 k < deadline s.cfg tc)
    (hbytes : ∀ k c, c ≤ 3 → 2 + c ≤ k → h ≤ k → k ≤ h + c → c < (received s world k).length) :
    (∃ u, RunsTo 2 s u ∧ u.out.tx = some (encode s.cfg (if w then .cmdWr reg value else .cmdRd reg value)))
    ∧ ∃ n t, 7 ≤ n ∧ n ≤ h + 5 ∧ RunsTo n s t ∧ EndsWithPacket s t reg p ((received s world (n - 1)).drop 4) := by
  obtain ⟨u, hrecv, hsent, ht0⟩ :=
    txn_sent (world := world) hrst hstate hvalid hword hscript (by omega) (hrsts 1 le_rfl (by omega))
  refine ⟨⟨u, hrecv.follows.run, hsent.tx⟩, ?_⟩
  obtain ⟨m, v, hm, hmh, hc⟩ :=
    reception ht0 hrsts (by rw [hsent.cfg, hsent.reqTc]; exact hdeadline) hbytes hrecv le_rfl hh
  obtain ⟨t, hrun, hend⟩ := txn_ends_of_checking hsent hc (hc.follows.rst (by omega) (hrsts m (by omega) hmh))
    (received_take_four hpacket hc.came)
  exact ⟨m + 1, t, by omega, by omega, hrun, hend⟩

end

/-- Settles O53: with a byte for each RX step the reception takes the least number of steps; once all four have come,
it takes at most four more. -/
theorem transactionCompletesInSevenSteps : Obligations.TransactionCompletesInSevenSteps := by
  intro s w tc reg value p world rest hrst hstate hvalid hword
  refine ⟨fun hpacket hpace hscript hrsts hdeadline => ?_, fun h hh hpacket hscript hrsts hdeadline => ?_⟩
  · obtain ⟨hsent, n, t, h7, hn, hend⟩ := txn_completes (h := 2) hrst hstate hvalid hword le_rfl hpacket hscript hrsts
      hdeadline (fun k c hc hck _ hkc => by have := hpace k (by omega) (by omega); simp only [received]; omega)
    obtain rfl : n = 7 := by omega
    exact ⟨hsent, t, hend⟩
  · refine (txn_completes hrst hstate hvalid hword hh hpacket hscript hrsts hdeadline fun k c hc _ hk _ => ?_).2
    have hlen : 4 ≤ (received s world h).length := by
      have := congrArg List.length hpacket
      simp only [List.length_take, List.length_cons, List.length_nil] at this
      simp only [received]
      omega
    exact (Nat.lt_succ_of_le hc).trans_le (hlen.trans (received_prefix s world hk).length_le)

/-! ## A response that does not come whole -/

/-- While at most three bytes have come and the deadline is not reached, RX goes on; it has taken at most the bytes that
had come a step before, and all that were queued at first where no other came. -/
theorem receiving_of_partial {s b : State} {world : Nat → EnvStep} {rest : List EnvStep} {m k : Nat}
    (hstart : Receiving s world m rest b 2 0 b) (hsent : b.t0 = nowMs s + msBy world 1)
    (hfew : (received s world (m - 1)).length ≤ 3) (hrst : ∀ k, 1 ≤ k → k ≤ m → (world k).inp.rst = false)
    (hdeadline : ∀ k, 2 ≤ k → k < m → waited world 1 k < deadline b.cfg b.reqTc) (hk2 : 2 ≤ k) (hkm : k ≤ m) :
    ∃ c v, Receiving s world m rest b k c v ∧ c ≤ (received s world (k - 1)).length
      ∧ (arrivedBy world (k - 1) = [] → c = min (k - 2) s.line.rxq.length) := by
  induction k, hk2 using Nat.le_induction with
  | base => exact ⟨0, b, hstart, Nat.zero_le _, fun _ => by simp⟩
  | succ k hk2 ih =>
    obtain ⟨c, v, hr, hc, hqueued⟩ := ih (by omega)
    have hvrst := hr.follows.rst (by omega) (hrst k (by omega) (by omega))
    have hbefore : elapsed (nowMs v) v.t0 < deadline v.cfg v.reqTc := by
      rw [hr.follows.elapsed_eq (hr.keeps.t0.trans hsent), hr.keeps.cfg, hr.keeps.reqTc]
      exact hdeadline k hk2 (by omega)
    have hlen : (received s world k).length ≤ 3 := (received_prefix s world (by omega)).length_le.trans hfew
    have hnone (h : arrivedBy world k = []) : arrivedBy world (k - 1) = [] ∧ received s world k = s.line.rxq := by
      obtain ⟨j, rfl⟩ : ∃ j, k = j + 1 := ⟨k - 1, by omega⟩
      exact ⟨(List.append_eq_nil_iff.mp h).1, by rw [received, h, List.append_nil]⟩
    by_cases hbyte : c < (received s world k).length
    · obtain ⟨w, hw⟩ := hr.take (by omega) hvrst hbefore hbyte (by omega)
      refine ⟨c + 1, w, hw, hbyte, fun h => ?_⟩
      obtain ⟨hnone', hrecv⟩ := hnone h
      have := hqueued hnone'
      rw [hrecv] at hbyte
      omega
    · obtain ⟨w, hw⟩ := hr.wait (by omega) hvrst hbefore (by omega)
      refine ⟨c, w, hw, hr.came, fun h => ?_⟩
      obtain ⟨hnone', hrecv⟩ := hnone h
      have := hqueued hnone'
      rw [hrecv] at hbyte
      omega

/-- From the deadline on an RX step has expired, but for a byte that waits exactly then where the parameter lets it be
taken (log entry 6). -/
theorem expired_of_le {c : Config} {tc : Bool} {e : Word} {waiting : Bool} (hle : deadline c tc ≤ e)
    (h : c.deadlineInclusive = false ∨ deadline c tc < e ∨ waiting = false) : expired c tc e waiting = true := by
  rcases h with h | h | rfl
  · rw [expired_exclusive h, decide_eq_true hle]
  · have hne : ¬ e = deadline c tc := fun heq => absurd (heq ▸ h) (BitVec.lt_irrefl _)
    simp [expired, hle, hne]
  · rw [expired_empty, decide_eq_true hle]

/-- Settles O54: RX goes on until the deadline, and the step that reaches it ends the command; nothing of what was
received shows in the outcome. -/
theorem partialResponseTimesOut : Obligations.PartialResponseTimesOut := by
  intro s w tc reg value m world rest limit hrst hstate hvalid hword hm hfew hscript hrsts hbefore hreached hinclusive
  obtain ⟨b, hrecv, hsent, ht0⟩ :=
    txn_sent (world := world) hrst hstate hvalid hword hscript hm (hrsts 1 le_rfl (by omega))
  obtain ⟨c, v, hr, hc, hqueued⟩ := receiving_of_partial hrecv ht0 hfew hrsts
    (by rw [hsent.cfg, hsent.reqTc]; exact hbefore) hm le_rfl
  have hcfg := hr.keeps.cfg.trans hsent.cfg
  have htc := hr.keeps.reqTc.trans hsent.reqTc
  have hexpired : expired v.cfg v.reqTc (elapsed (nowMs v) v.t0) (!v.line.rxq.isEmpty) = true := by
    rw [hr.follows.elapsed_eq (hr.keeps.t0.trans ht0), hcfg, htc]
    refine expired_of_le hreached (hinclusive.imp_right (Or.imp_right fun ⟨hnone, hlen⟩ => ?_))
    obtain ⟨j, rfl⟩ : ∃ j, m = j + 1 := ⟨m - 1, by omega⟩
    have hall := hqueued (List.append_eq_nil_iff.mp hnone).1
    have hempty : v.line.rxq = [] := by
      rw [hr.queue, received, hnone, List.append_nil, List.drop_eq_nil_of_le (by omega)]
    simp [hempty]
  have hstep := step_of_rx_expired (hr.follows.rst (by omega) (hrsts m (by omega) le_rfl)) hr.state hexpired
  rw [complete_of_host _ ((quiet_origin v).trans (hr.keeps.origin.trans hsent.origin))] at hstep
  refine ⟨_, hr.follows.run.succ hstep, by simp, by simp, by simp, ?_, ?_, ?_, ?_⟩
  · simp [hr.keeps.last, hsent.last]
  · rw [advance_rxCnt, finish_rxCnt, quiet_rxCnt, hr.count]
    exact hc
  · obtain ⟨ms, a, hline⟩ := advance_line (finish (.plain .txnTimeout) (quiet v))
    rw [advance_rxCnt, finish_rxCnt, quiet_rxCnt, hr.count, hline, pass_rxq]
    exact hr.queue ▸ List.prefix_append ..
  · intro hnone hlen
    have := hqueued hnone
    rw [advance_rxCnt, finish_rxCnt, quiet_rxCnt, hr.count]
    omega

end Sys2Proof.Machine
end

section
/-! Proofs of the statements about a whole negotiation (42_control.md, rules R170 to R177): the four steps a candidate
takes when no byte comes for it, by induction over the candidates, and the reception of the one that answers. -/

namespace Sys2Proof.Machine

/-- The step that accepts NEGOTIATE (rule R171). -/
theorem step_of_negotiate {s : State} (hrst : s.env.inp.rst = false) (hstate : s.state = .idle)
    (hvalid : s.env.inp.cmdValid = true) (hword : s.env.inp.cmdWord = 0x20000000#32) :
    step s = .next (advance { quiet s with baudOk := false, accIdx := 7#3, negIdx := 0#3, state := .negCfg }) := by
  have hdecode : decodeHost s.env.inp.cmdWord = .ok .negotiate := by rw [hword]; decide
  rw [step_of_fetch_instr (fetch_of_command hrst hstate hvalid hdecode)]
  rfl

/-- After `4 j + 1` steps the `j` candidates before were tried in vain: the next step configures candidate `j`, or the
fallback rate where none is left. Nothing was taken from the queue. -/
structure Trying (s : State) (world : Nat → EnvStep) (n : Nat) (rest : List EnvStep) (j : Nat) (v : State) : Prop where
  follows : Follows s world n rest (4 * j + 1) v
  queue : v.line.rxq = received s world (4 * j + 1)
  cfg : v.cfg = s.cfg
  last : v.last = s.last
  candidate : j < s.cfg.nBaud → v.state = .negCfg ∧ v.negIdx.toNat = j
  exhausted : s.cfg.nBaud ≤ j → v.state = .negFallback

/-- After `4 j + 2` steps candidate `j` is configured, and its settling wait has begun. -/
structure Settling (s : State) (world : Nat → EnvStep) (n : Nat) (rest : List EnvStep) (j : Nat) (v : State) : Prop where
  follows : Follows s world n rest (4 * j + 2) v
  queue : v.line.rxq = received s world (4 * j + 2)
  configured : v.out.cfg = s.cfg.baudList[j]?
  state : v.state = .negSettle
  tCfg : v.tCfg = nowMs s + msBy world (4 * j + 1)
  cfg : v.cfg = s.cfg
  negIdx : v.negIdx.toNat = j
  last : v.last = s.last
  baud : some v.baud = s.cfg.baudList[j]?
  rate : some v.line.rate = s.cfg.baudList[j]?

/-- What the TX step of candidate `j`'s probe leaves: the NOP read on the port and in the latch, and the transport at the
candidate's rate. -/
structure ProbeSent (s : State) (world : Nat → EnvStep) (j : Nat) (b : State) : Prop where
  tx : b.out.tx = some (encode s.cfg (.cmdRd s.cfg.nopReg 0#16))
  t0 : b.t0 = nowMs s + msBy world (4 * j + 3)
  cfg : b.cfg = s.cfg
  reqReg : b.reqReg = s.cfg.nopReg
  reqTc : b.reqTc = false
  origin : b.origin = .neg
  negIdx : b.negIdx.toNat = j
  last : b.last = s.last
  baud : some b.baud = s.cfg.baudList[j]?
  rate : some b.line.rate = s.cfg.baudList[j]?

section
variable {s : State} {world : Nat → EnvStep} {rest : List EnvStep} {n j : Nat} {v b : State}

/-- NEGOTIATE begins with candidate 0. -/
theorem trying_zero (hwf : s.cfg.wf) (hrst : s.env.inp.rst = false) (hstate : s.state = .idle)
    (hvalid : s.env.inp.cmdValid = true) (hword : s.env.inp.cmdWord = 0x20000000#32)
    (hscript : s.env.script = (List.range' 1 n).map world ++ rest) (hn : 1 ≤ n) : ∃ v, Trying s world n rest 0 v := by
  have hfollows := Follows.start (world := world) hscript
  have hstep := step_of_negotiate hrst hstate hvalid hword
  refine ⟨_, hfollows.step hn hstep rfl rfl, ?_, by simp, by simp, fun _ => by simp, fun h => ?_⟩
  · rw [received_succ, received, arrivedBy, List.append_nil]
    exact hfollows.rxq_advance hn rfl
  · exact absurd (hwf.1.trans h) (by decide)

/-- The candidate is configured (rule R172). -/
theorem Trying.configure (h : Trying s world n rest j v) (hj : j < s.cfg.nBaud) (hn : 4 * j + 2 ≤ n)
    (hrst : ∀ k, 1 ≤ k → k ≤ n → (world k).inp.rst = false) : ∃ u, Settling s world n rest j u := by
  obtain ⟨hstate, hidx⟩ := h.candidate hj
  have hrate : s.cfg.baudList[j]? = some s.cfg.baudList[j] := List.getElem?_eq_getElem hj
  have hstep := negCfgConfiguresCandidate v _ (h.follows.rst (by omega) (hrst _ (by omega) (by omega))) hstate
    (by rw [h.cfg, hidx, hrate])
  refine ⟨_, h.follows.step (by omega) hstep rfl rfl, ?_, by simp [hrate], by simp, ?_, by simp [h.cfg], by simp [hidx],
    by simp [h.last], by simp [hrate], by simp [hrate]⟩
  · rw [received_succ, ← h.queue]
    exact h.follows.rxq_advance (by omega) rfl
  · rw [← h.follows.now, advance_tCfg]

/-- The settled candidate is probed (rule R173). -/
theorem Settling.probe (h : Settling s world n rest j v) (hn : 4 * j + 4 ≤ n)
    (hrst : ∀ k, 1 ≤ k → k ≤ n → (world k).inp.rst = false)
    (hsettle : s.cfg.tSettle ≤ waited world (4 * j + 1) (4 * j + 2)) :
    ∃ b, Receiving s world n rest b (4 * j + 4) 0 b ∧ ProbeSent s world j b := by
  have hsettled : v.cfg.tSettle ≤ nowMs v - v.tCfg := by
    rw [h.cfg]
    exact hsettle.trans_eq (h.follows.elapsed_eq h.tCfg).symm
  have hstep := (settledProbeAndFallback v (h.follows.rst (by omega) (hrst _ (by omega) (by omega)))).1 h.state hsettled
  have hfollows := h.follows.step (by omega) hstep rfl rfl
  obtain ⟨b, hb, hrecv⟩ := hfollows.send (by omega) (hfollows.rst (by omega) (hrst _ (by omega) (by omega))) (by simp) (by
    rw [received_succ, ← h.queue]
    exact h.follows.rxq_advance (by omega) rfl)
  refine ⟨b, hrecv, ?_⟩
  subst hb
  constructor
  case tx => simp [h.cfg, encode]
  case t0 => rw [← hfollows.now]; simp
  all_goals simp [h.cfg, h.negIdx, h.last, h.baud, h.rate]

/-- A probe to which no byte comes times out in its first RX step, and the next candidate is tried, or the fallback
(rules R142 and R175). -/
theorem ProbeSent.fails (h : ProbeSent s world j b) (hr : Receiving s world n rest b (4 * j + 4) 0 b)
    (hwf : s.cfg.wf) (hj : j < s.cfg.nBaud) (hn : 4 * j + 5 ≤ n)
    (hrst : ∀ k, 1 ≤ k → k ≤ n → (world k).inp.rst = false) (hnone : received s world (4 * j + 4) = [])
    (hsilent : s.cfg.tGen ≤ waited world (4 * j + 3) (4 * j + 4)) : ∃ v, Trying s world n rest (j + 1) v := by
  have hempty : b.line.rxq = [] := hr.queue.trans (by rw [hnone, List.drop_nil])
  have hexpired : expired b.cfg b.reqTc (elapsed (nowMs b) b.t0) (!b.line.rxq.isEmpty) = true := by
    rw [hr.follows.elapsed_eq h.t0, h.cfg, h.reqTc]
    exact expired_of_le hsilent (.inr (.inr (by simp [hempty])))
  have hstep := step_of_rx_expired (hr.follows.rst (by omega) (hrst _ (by omega) (by omega))) hr.state hexpired
  rw [complete_of_probeFails ((quiet_origin b).trans h.origin) rfl] at hstep
  have hnext : (b.negIdx + 1#3).toNat = j + 1 := by
    have := hwf.2.1
    rw [BitVec.toNat_add, h.negIdx, BitVec.toNat_ofNat]
    omega
  have hleft : b.negIdx.toNat + 1 < b.cfg.nBaud ↔ j + 1 < s.cfg.nBaud := by rw [h.negIdx, h.cfg]
  refine ⟨_, hr.follows.step (by omega) hstep rfl rfl, ?_, by simp [h.cfg], by simp [h.last],
    fun hlt => ?_, fun hge => ?_⟩
  · rw [show 4 * (j + 1) + 1 = 4 * j + 4 + 1 by omega, received_succ, hnone, ← hempty]
    exact hr.follows.rxq_advance (by omega) rfl
  · simp [hleft, hlt, hnext]
  · simp [hleft, hge.not_gt]

/-- Where no byte has come, none is received. -/
theorem received_eq_nil {k : Nat} (hqueue : s.line.rxq = []) (hnone : ∀ i, 1 ≤ i → i ≤ k → (world i).arrivals = []) :
    received s world k = [] := by
  induction k with
  | zero => rw [received, hqueue]; rfl
  | succ k ih => rw [received_succ, ih fun i h1 hi => hnone i h1 (by omega), hnone (k + 1) (by omega) le_rfl]; rfl

/-- While no byte comes and each wait ends in its first step, one candidate after the other is tried. -/
theorem trying_of_silent {m : Nat} (hwf : s.cfg.wf) (hstart : ∃ v, Trying s world n rest 0 v) (hm : m ≤ s.cfg.nBaud)
    (hn : 4 * m + 1 ≤ n) (hrst : ∀ k, 1 ≤ k → k ≤ n → (world k).inp.rst = false)
    (hnone : ∀ i, i < m → received s world (4 * i + 4) = [])
    (hsettle : ∀ i, i < m → s.cfg.tSettle ≤ waited world (4 * i + 1) (4 * i + 2))
    (hsilent : ∀ i, i < m → s.cfg.tGen ≤ waited world (4 * i + 3) (4 * i + 4)) {i : Nat} (hi : i ≤ m) :
    ∃ v, Trying s world n rest i v := by
  induction i with
  | zero => exact hstart
  | succ i ih =>
    obtain ⟨v, hv⟩ := ih (by omega)
    obtain ⟨u, hu⟩ := hv.configure (by omega) (by omega) hrst
    obtain ⟨b, hr, hb⟩ := hu.probe (by omega) hrst (hsettle i hi)
    exact hb.fails hr hwf (by omega) (by omega) hrst (hnone i hi) (hsilent i hi)

/-- What the ports show of a candidate that is tried: its rate after `4 j + 2` steps and its probe after `4 j + 4`. -/
theorem Trying.shows (h : Trying s world n rest j v) (hj : j < s.cfg.nBaud) (hn : 4 * j + 4 ≤ n)
    (hrst : ∀ k, 1 ≤ k → k ≤ n → (world k).inp.rst = false)
    (hsettle : s.cfg.tSettle ≤ waited world (4 * j + 1) (4 * j + 2)) :
    (∃ u, RunsTo (4 * j + 2) s u ∧ u.out.cfg = s.cfg.baudList[j]?)
    ∧ ∃ u, RunsTo (4 * j + 4) s u ∧ u.out.tx = some (encode s.cfg (.cmdRd s.cfg.nopReg 0#16)) := by
  obtain ⟨u, hu⟩ := h.configure hj (by omega) hrst
  obtain ⟨b, hr, hb⟩ := hu.probe hn hrst hsettle
  exact ⟨⟨u, hu.follows.run, hu.configured⟩, b, hr.follows.run, hb.tx⟩

end

/-- Settles O55: every candidate is tried in vain, and the fallback step ends the command. -/
theorem silentDeviceFailsNegotiation : Obligations.SilentDeviceFailsNegotiation := by
  intro s world rest hwf hrst hstate hvalid hword hqueue hscript hworld hwaits
  have hrsts k (h1 : 1 ≤ k) (hk : k ≤ 4 * s.cfg.nBaud + 1) := (hworld k h1 hk).1
  have htrying {i : Nat} (hi : i ≤ s.cfg.nBaud) :=
    trying_of_silent hwf (trying_zero hwf hrst hstate hvalid hword hscript (by omega)) le_rfl le_rfl hrsts
      (fun i hi => received_eq_nil hqueue fun k h1 hk => (hworld k h1 (by omega)).2) (fun i hi => (hwaits i hi).1)
      (fun i hi => (hwaits i hi).2) hi
  refine ⟨fun j hj => ?_, ?_⟩
  · obtain ⟨v, hv⟩ := htrying hj.le
    exact hv.shows hj (by omega) hrsts (hwaits j hj).1
  · obtain ⟨v, hv⟩ := htrying le_rfl
    have hstep := (settledProbeAndFallback v (hv.follows.rst (by omega) (hrsts _ (by omega) le_rfl))).2
      (hv.exhausted le_rfl)
    exact ⟨_, hv.follows.run.succ hstep, by simp [hv.cfg, hv.last]⟩

/-- Settles O56: the candidates before are tried in vain, the bytes of the answer are received in four steps, and the
valid response accepts the candidate. -/
theorem firstAnsweringCandidateWins : Obligations.FirstAnsweringCandidateWins := by
  intro s j p r world rest hwf hrst hstate hvalid hword hqueue hj hd hce hstatus hscript hworld hsettle hsilent hinTime
  have hrsts k (h1 : 1 ≤ k) (hk : k ≤ 4 * j + 8) := (hworld k h1 hk).1
  have hnone (k : Nat) (hk : k < 4 * j + 4) : received s world k = [] :=
    received_eq_nil hqueue fun i h1 hi => by rw [(hworld i h1 (by omega)).2, if_neg (by omega)]
  have hanswer : received s world (4 * j + 4) = packetBytes p := by
    rw [received_succ, hnone _ (by omega), (hworld (4 * j + 4) (by omega) (by omega)).2, if_pos rfl]
    rfl
  have hcame (k : Nat) (hk : 4 * j + 4 ≤ k) : 4 ≤ (received s world k).length := by
    have := (received_prefix s world hk).length_le
    rwa [hanswer] at this
  have htrying {i : Nat} (hi : i ≤ j) :=
    trying_of_silent hwf (trying_zero hwf hrst hstate hvalid hword hscript (by omega)) hj.le (by omega) hrsts
      (fun i hi => hnone _ (by omega)) (fun i hi => hsettle i hi.le) hsilent hi
  refine ⟨fun i hi => ?_, ?_⟩
  · obtain ⟨v, hv⟩ := htrying hi
    exact hv.shows (by omega) (by omega) hrsts (hsettle i hi)
  · obtain ⟨v, hv⟩ := htrying le_rfl
    obtain ⟨u, hu⟩ := hv.configure hj (by omega) hrsts
    obtain ⟨b, hr, hb⟩ := hu.probe (by omega) hrsts (hsettle j le_rfl)
    obtain ⟨m, w, hm, hmh, hc⟩ := reception (h := 4 * j + 4) hb.t0 hrsts
      (by rw [hb.cfg, hb.reqTc]; exact fun k hk hkh => hinTime k hk hkh)
      (fun k c hc _ hk _ => (Nat.lt_succ_of_le hc).trans_le (hcame k hk)) hr le_rfl le_rfl
    obtain rfl : m = 4 * j + 8 := by omega
    have hbuf : w.rxbuf = p := packetBytes_injective (hc.buffer.trans
      (received_take_four (j := 4 * j + 4) (by rw [hanswer]; rfl) hc.came))
    have hcfg := hc.keeps.cfg.trans hb.cfg
    have hstep := step_of_probe_accepted (hc.follows.rst (by omega) (hrsts _ (by omega) le_rfl)) hc.state
      (hc.keeps.origin.trans hb.origin) (by rw [hcfg, hbuf]; exact hd) hce hstatus
    refine ⟨_, hc.follows.run.succ hstep, ?_⟩
    simp [hc.keeps.reqReg, hb.reqReg, hc.keeps.negIdx, hb.negIdx, hc.keeps.baud, hb.baud, hc.keeps.rate, hb.rate]

end Sys2Proof.Machine
end
